-- ==== Sys2Proof/Word.lean ====
section
/-! DEFINITION. The word of the IVRENE-440: 16 bits, the width of a buffer-memory location and of every host
register (Introduction, "Words and addresses"). -/

namespace Sys2Proof

/-- A word: one buffer-memory location, one host register, one beat's data. -/
abbrev Word := BitVec 16

/-- The high or the low half of a word written to the host bus. -/
abbrev Byte := BitVec 8

end Sys2Proof
end

