-- ==== Sys2Proof/Syntax.lean ====
section
/-! DEFINITION. The commands the block takes: one constructor for each row of spec/opcode_table.json. A command
is one event of the part (host access, link event, transaction completion, tick), an end-of-instant step, a step
that the table lists by itself, or a reset. -/

namespace Sys2Proof

/-- The four ports P0 to P3 (Introduction, "Names of states, codes and fields"). -/
inductive PortId where
  | p0 | p1 | p2 | p3
deriving DecidableEq, Repr

/-- The commands, in the order of spec/opcode_table.json.

* The fourteen rows of Table 9-1 are CMD writes: `high` is bits 15:8 of the word the host writes (port number in
  its bits 1:0; its bits 7:2 are CMD bits 15:10, ignored by R7), the row's code is bits 7:0.
* `w` is the word the host writes to the row's register.
* `registerWrite rd wr off w` is a host access with CS_N asserted at offset `off`: `wr` and `rd` say whether WR_N
  and RD_N are asserted (R1). -/
inductive Instr where
  /-- CMD write, code 00H (R157). -/
  | nop (high : Byte)
  /-- CMD write, code 10H (R158). -/
  | arm (high : Byte)
  /-- CMD write, code 11H (R159). -/
  | disarm (high : Byte)
  /-- CMD write, code 12H (R160). -/
  | doze (high : Byte)
  /-- CMD write, code 13H (R161). -/
  | wake (high : Byte)
  /-- CMD write, code 20H (R162). -/
  | portOpen (high : Byte)
  /-- CMD write, code 21H (R163). -/
  | portClose (high : Byte)
  /-- CMD write, code 22H (R164). -/
  | portAbort (high : Byte)
  /-- CMD write, code 30H (R166). -/
  | segPost (high : Byte)
  /-- CMD write, code 31H (R167). -/
  | segFlush (high : Byte)
  /-- CMD write, code 32H (R168). -/
  | queueStatus (high : Byte)
  /-- CMD write, code 33H (R169). -/
  | markRead (high : Byte)
  /-- CMD write, code 40H (R171). -/
  | memFill (high : Byte)
  /-- CMD write, code 41H (R172). -/
  | regionCrc (high : Byte)
  /-- CMD write whose code is absent from Table 9-1 (R156). -/
  | undefinedCommand (w : Word)
  /-- CMD write that finds the sequencer BUSY (R9). -/
  | overlap (w : Word)
  /-- DEV_CTRL write with SOFT_RESET (R178). -/
  | softReset (w : Word)
  /-- DEV_CTRL write with CMD_CANCEL and not SOFT_RESET (R10). -/
  | cmdCancel (w : Word)
  /-- XEN_SET write (R4). -/
  | xenSet (w : Word)
  /-- XEN_CLR write (R4). -/
  | xenClr (w : Word)
  /-- SUMMARY read (R151). -/
  | summaryRead
  /-- EVQ_POP read (R148). -/
  | evqPop
  /-- EVQ_THRESH write (R5). -/
  | evqThreshWrite (w : Word)
  /-- WIN_ADDR_LO write (R12). -/
  | winAddrLoWrite (w : Word)
  /-- WIN_ADDR_HI write (R12). -/
  | winAddrHiWrite (w : Word)
  /-- WIN_DATA read (R14). -/
  | winDataRead
  /-- WIN_DATA write (R15). -/
  | winDataWrite (w : Word)
  /-- CFG_DATA write (R18). -/
  | cfgDataWrite (w : Word)
  /-- CFG_DATA write to MEM_CTRL (CFG_INDEX 1) with START set (R44). -/
  | start (w : Word)
  /-- Host access to any position, its strobes as R1 lists them (R1). -/
  | registerWrite (rd wr : Bool) (off : BitVec 6) (w : Word)
  /-- Beat on a capture link (R80). -/
  | captureBeat (p : PortId) (w : Word) (mark : Bool)
  /-- Beat on a replay link (R86). -/
  | replayBeat (p : PortId)
  /-- The partner asserts its side while the part holds its own low (R76). -/
  | heldOffer (p : PortId)
  /-- Timebase tick (R176). -/
  | tick
  /-- The refresh interval count reaches the interval (R50). -/
  | owedRise
  /-- Port p's idle count reaches LINK_IDLE(p) (R93). -/
  | linkIdle (p : PortId)
  /-- The oldest record's age reaches EVQ_AGE (R154). -/
  | eventAge
  /-- Completion of a capture port's WRITE_BURST (R106). -/
  | writeBurstCompletion
  /-- Completion of a replay port's READ_BURST (R110). -/
  | readBurstCompletion
  /-- Completion of a window WORD_READ (R13). -/
  | wordReadCompletion
  /-- Completion of a window WORD_WRITE (R15). -/
  | wordWriteCompletion
  /-- Completion of a REFRESH (R49). -/
  | refreshCompletion
  /-- Completion of an init step (R45). -/
  | initStepCompletion
  /-- Completion of a MEM_FILL chunk (R171). -/
  | memFillChunkCompletion
  /-- Completion of a REGION_CRC chunk (R172). -/
  | regionCrcChunkCompletion
  /-- End-of-instant arbitration point (R62). -/
  | arbitrationPoint
  /-- End-of-instant sleep test (R56). -/
  | sleepEntry
  /-- A deferred soft reset is applied (R180). -/
  | softResetApplied
  /-- Power-up (R177). -/
  | powerOnReset
  /-- RESET_N driven low (R177). -/
  | pinReset
  /-- The end of a power-on or pin reset (R177). -/
  | resetRelease
  /-- A waiting PORT_ABORT executes (R134). -/
  | abortExecute
  /-- A capture drain has reached its end (R128). -/
  | captureCloseEnd (p : PortId)
  /-- A replay drain has reached its end (R129). -/
  | replayCloseEnd (p : PortId)
deriving DecidableEq, Repr

end Sys2Proof
end

