-- ==== Sys2Proof/Decode.lean ====
section
/-! DEFINITION. The commands that words spell by the table's bits. spec/opcode_table.json gives no row a match, a
mask or a field, so no word spells a command (log entry 16). -/

namespace Sys2Proof

/-- The command that `w`, an item of `nbits` bits, spells by the table's bits: none, for every word. -/
def decodeTableWord (_nbits _w : Nat) : Option Instr := none

end Sys2Proof
end

