-- ==== Sys2Proof/Config.lean ====
section
/-! DEFINITION. What the manual leaves to the board or leaves open: opaque constants, so that no proof can learn
their values. (The 64-word configuration space is machine state, not this file.) -/

namespace Sys2Proof.Config

/-- The DRAM that the board attaches: 0, 1 or 2 for 1, 2 or 4 Mi words (Introduction, "Signal summary"; R41).
It is the board's, not the part's, and need not agree with MEM_GEOM's size select. -/
opaque attachedSelect : Fin 3

/-- FREE VALUE (R55): the data bits that the n-th read of an unwritten buffer-memory word returns. -/
opaque unwrittenData : Nat → BitVec 16

/-- FREE VALUE (R55): the two parity bits that the n-th read of an unwritten buffer-memory word meets. -/
opaque unwrittenParity : Nat → BitVec 2

/-- FREE VALUE: what the n-th host read of XEN_SET or XEN_CLR returns in bits 3:0; the manual states no value
for a read of a W1S or W1C action register. -/
opaque unstatedRead : Nat → BitVec 16

end Sys2Proof.Config
end

