-- ==== Sys2Proof/Machine/State.lean ====
section
/-! DEFINITION. The state of the IVRENE-440, block by block as the Introduction lists the blocks, and the state
after reset (Table 10-2, R181). Everything is plain data. -/

namespace Sys2Proof.Machine

/-- One of anything per port. -/
structure Quad (α : Type) where
  p0 : α
  p1 : α
  p2 : α
  p3 : α
deriving DecidableEq, Repr

/-- Port p's copy. -/
def Quad.get {α : Type} (q : Quad α) : PortId → α
  | .p0 => q.p0
  | .p1 => q.p1
  | .p2 => q.p2
  | .p3 => q.p3

/-- Replace port p's copy. -/
def Quad.set {α : Type} (q : Quad α) (p : PortId) (x : α) : Quad α :=
  match p with
  | .p0 => ⟨x, q.p1, q.p2, q.p3⟩
  | .p1 => ⟨q.p0, x, q.p2, q.p3⟩
  | .p2 => ⟨q.p0, q.p1, x, q.p3⟩
  | .p3 => ⟨q.p0, q.p1, q.p2, x⟩

/-- Compute every port's copy from its number and its copy. -/
def Quad.map {α β : Type} (f : PortId → α → β) (q : Quad α) : Quad β :=
  ⟨f .p0 q.p0, f .p1 q.p1, f .p2 q.p2, f .p3 q.p3⟩

/-! ### Host Port (HP): Chapter 1 -/

/-- ARG0 to ARG7 (R7). -/
structure Args where
  a0 : Word := 0
  a1 : Word := 0
  a2 : Word := 0
  a3 : Word := 0
  a4 : Word := 0
  a5 : Word := 0
  a6 : Word := 0
  a7 : Word := 0
deriving DecidableEq, Repr

/-- Four words: RES0 to RES3, and EVW0 to EVW3. -/
structure Words4 where
  w0 : Word := 0
  w1 : Word := 0
  w2 : Word := 0
  w3 : Word := 0
deriving DecidableEq, Repr

/-- The latched command: code, port and a copy of ARG0 to ARG7 (R7, step 4). -/
structure Latched where
  code : Byte := 0
  port : PortId := .p0
  args : Args := {}
deriving DecidableEq, Repr

/-- What MEM_FILL and REGION_CRC hold in common while they run (R170). -/
structure Job where
  start   : Nat
  count   : Nat
  covered : Nat := 0
  cancel  : Bool := false
deriving DecidableEq, Repr

/-- The command that keeps the sequencer BUSY (R8): with its private state (R170). -/
inductive Running where
  | memFill (job : Job) (pattern : Word)
  | regionCrc (job : Job) (crc : Word) (errors : Nat)
  | portAbort (p : PortId)
  | doze
deriving DecidableEq, Repr

/-- Result codes (Table 1-1). -/
inductive Result where
  | ok | empty | badCode | badPort | badState | queueFull | segRange | segFormat | protectedRange | notAwake
  | checkFailed | cancelled | badArg
deriving DecidableEq, Repr

/-- The command sequencer and its registers (section 1.4). BUSY is `running.isSome`: the sequencer is IDLE
exactly when `running` is `none`. -/
structure Sequencer where
  args    : Args := {}
  running : Option Running := none
  latched : Latched := {}
  done    : Bool := false
  overlap : Bool := false
  result  : Result := .ok
  res     : Words4 := {}
deriving DecidableEq, Repr

/-- The prefetch latch (section 1.5). -/
inductive Latch where
  | empty
  | pending
  | ready (w : Word)
deriving DecidableEq, Repr

/-- A word waiting in the window's write buffer, with the address it latched (R15). -/
structure Buffered where
  word : Word
  addr : BitVec 22
deriving DecidableEq, Repr

/-- The memory window (section 1.5). `errors` holds WIN_STATUS bits 14:8 as bits 6:0: RANGE, PROTECT, OVERFLOW,
UNDERFLOW, PARITY, NOT_READY, CONFLICT from bit 0 up. -/
structure Window where
  addr   : BitVec 22 := 0
  latch  : Latch := .empty
  wbuf   : Option Buffered := none
  errors : BitVec 7 := 0
deriving DecidableEq, Repr

/-- The Host Port: sequencer, window, configuration gate (section 1.6), and the word the part last drove on
D15 to D0. -/
structure HostPort where
  seq       : Sequencer := {}
  win       : Window := {}
  cfgIndex  : BitVec 6 := 0
  cfgLocked : Bool := false
  dataBus   : Word := 0
deriving DecidableEq, Repr

/-! ### Setup Controller (SC): Chapter 2 -/

/-- Device state (R19). -/
inductive Device where
  | setup | armed | doze
deriving DecidableEq, Repr

/-- The cause of the most recent reset (R2). -/
inductive ResetCause where
  | power | pin | soft
deriving DecidableEq, Repr

/-- The seven configuration words of one port (Table 2-1). Power-on defaults; LEVELS(p) differs by port. -/
structure PortCfg where
  pcfg       : Word := 0x0040
  regionBase : Word := 0x0000
  regionSize : Word := 0x0001
  wm         : Word := 0x3010
  levels     : Word
  linkIdle   : Word := 0x0000
  fillWord   : Word := 0x0000
deriving DecidableEq, Repr

/-- The configuration space (Table 2-1): MEM_CTRL, word 1, stores nothing (R25). -/
structure Cfg where
  memGeom : Word := 0x0080
  refresh : Word := 0x0420
  tickDiv : Word := 0x03E8
  arbCtrl : Word := 0xB580
  ports   : Quad PortCfg := ⟨{ levels := 0x0208 }, { levels := 0x0309 }, { levels := 0x040A }, { levels := 0x050B }⟩
deriving DecidableEq, Repr

/-- The Setup Controller: device state, configuration space, and the two reset indications of DEV_STATUS. -/
structure Setup where
  device       : Device := .setup
  cfg          : Cfg := {}
  resetCause   : ResetCause := .power
  resetPending : Bool := false
deriving DecidableEq, Repr

/-! ### Segments and FIFO words: Chapters 5 and 6 -/

/-- A descriptor's posted fields (R95). `last` is SPLIT on a capture port and MARK_LAST on a replay port (R96);
`rpt` is the optional repeat field. -/
structure Desc where
  tag     : Byte
  start   : Nat
  length  : Nat
  notify  : Bool
  stop    : Bool
  recycle : Bool
  last    : Bool
  guard   : Option Nat
  rpt     : Option Nat
deriving DecidableEq, Repr

/-- A queue entry: a descriptor with its progress and its started flag (R97). -/
structure QEntry where
  desc     : Desc
  progress : Nat := 0
  started  : Bool := false
deriving DecidableEq, Repr

/-- The boundary information of a replay word (R78, R108): its descriptor, repetition, segment index and final
flag. -/
structure Boundary where
  desc  : Desc
  rep   : Nat
  index : Nat
  final : Bool
deriving DecidableEq, Repr

/-- A FIFO entry (R78): a word and its MARK flag, and on a replay port the boundary information. -/
structure FifoWord where
  word     : Word
  mark     : Bool
  boundary : Option Boundary := none
deriving DecidableEq, Repr

/-- A FIFO entry reserved for a READ_BURST in flight: MARK and boundary information, no word yet (R68, R108). -/
structure Slot where
  mark     : Bool
  boundary : Boundary
deriving DecidableEq, Repr

/-! ### Buffer Memory Controller (MC): Chapter 3 -/

/-- A stored buffer-memory word: 16 data bits and the parity bits of lanes 0 and 1 (R42). -/
structure MemWord where
  data   : Word
  parity : BitVec 2
deriving DecidableEq, Repr

/-- Buffer memory: the cells written since the contents were last lost (R55), by cell number, strictly rising. -/
abbrev Memory := List (Nat × MemWord)

/-- Controller state (R43). READY is free when no transaction is in flight. -/
inductive McState where
  | off | init | ready | sleep
deriving DecidableEq, Repr

/-- Where an initialisation sequence stands (R44, R45): no sequence; INIT entered while a granted transaction is
in flight, no step issued yet; or step `k` of the sequence (0 is PRECHARGE_ALL) in flight, with the count and the
order read when it was issued. -/
inductive InitPos where
  | idle
  | awaiting
  | step (n : Nat) (modeFirst : Bool) (k : Nat)
deriving DecidableEq, Repr

/-- The requesters in requester index order, and the controller itself for its init steps (R45, R60). -/
inductive Requester where
  | refresh
  | host
  | port (p : PortId)
  | controller
deriving DecidableEq, Repr

/-- Transaction kinds (R47). -/
inductive Kind where
  | writeBurst | readBurst | wordWrite | wordRead | refresh | prechargeAll | initRefresh | modeLoad
deriving DecidableEq, Repr

/-- The transaction in flight (R48): kind, requester, first address, word count; the words a write carries (R67);
the FIFO entries a replay read has reserved (R68); and whether it has become an orphan (R114) or, for a window
WORD_READ, belongs to a discarded prefetch (R13). -/
structure Flight where
  kind   : Kind
  who    : Requester
  addr   : Nat := 0
  count  : Nat := 0
  words  : List FifoWord := []
  slots  : List Slot := []
  orphan : Bool := false
deriving DecidableEq, Repr

/-- The Buffer Memory Controller. -/
structure MemCtl where
  state         : McState := .off
  init          : InitPos := .idle
  flight        : Option Flight := none
  owed          : Nat := 0
  intervalCount : Nat := 0
  lossEpisode   : Bool := false
  memSuspect    : Bool := false
  sleepRequest  : Bool := false
  mem           : Memory := []
deriving DecidableEq, Repr

/-! ### Memory Arbiter (MA): Chapter 4 -/

/-- Fairness state (R59). -/
inductive Fair where
  | opened | held
deriving DecidableEq, Repr

/-- The urgency of a request, and the class of a grant (R60, R66). -/
inductive Urgency where
  | normal | urgent
deriving DecidableEq, Repr

/-- The grant record (R59). -/
structure Grant where
  who   : Requester
  cls : Urgency
deriving DecidableEq, Repr

/-- The Memory Arbiter: fairness states and grant record (R59). -/
structure Arbiter where
  host  : Fair := .opened
  ports : Quad Fair := ⟨.opened, .opened, .opened, .opened⟩
  grant : Option Grant := none
deriving DecidableEq, Repr

/-! ### Ports: link, FIFO and sequencer (PL, SS): Chapters 5 to 7 -/

/-- Port state (R123). -/
inductive PState where
  | closed | idle | active | closing | faulted
deriving DecidableEq, Repr

/-- The fetch cursor standing on a word: position of its entry in the queue (0 is the head), repetition from 1,
offset (R107). At tail is `none`. -/
structure Cursor where
  pos : Nat
  rep : Nat
  off : Nat
deriving DecidableEq, Repr

/-- The stop block (R109): clear; set, its STOP descriptor at this queue position; or set, its STOP descriptor
having left the queue. -/
inductive StopBlock where
  | clear
  | waiting (pos : Nat)
  | left
deriving DecidableEq, Repr

/-- A mark-log entry (R137). -/
structure MarkEntry where
  tag   : Byte
  index : Nat
  addr  : Nat
deriving DecidableEq, Repr

/-- One port: lifecycle state and transfer enable, the link block's state (R77), the sequencer's state (R97) and
the mark log (R137). -/
structure Port where
  state        : PState := .closed
  xen          : Bool := false
  fifo         : List FifoWord := []
  reservation  : Nat := 0
  overrun      : Bool := false
  underrun     : Bool := false
  idleCount    : Nat := 0
  idleDeclared : Bool := false
  drop         : Nat := 0
  fill         : Nat := 0
  request      : Option Urgency := none
  queue        : List QEntry := []
  fetch        : Option Cursor := none
  stopBlock    : StopBlock := .clear
  marks        : List MarkEntry := []
  overwrites   : Nat := 0
deriving DecidableEq, Repr

/-! ### Event Unit (EU): Chapter 8 -/

/-- Record kinds (R145). -/
inductive EvKind where
  | segDone | segShort | segAborted | segCancelled | guard | overrun | underrun | linkIdle | parity
  | portClosed | portFault | refreshLost | evqLost | memReady
deriving DecidableEq, Repr

/-- Record sources (R144). -/
inductive Source where
  | port (p : PortId)
  | mem
  | host
  | sys
deriving DecidableEq, Repr

/-- Detail codes (R145). -/
inductive Detail where
  | noDetail | markEnd | close | closeIdle | hostAbort | fault | flush | abort | overrun | parity
deriving DecidableEq, Repr

/-- What a block supplies when it posts a record (R144). -/
structure Report where
  kind   : EvKind
  source : Source
  tag    : Byte
  detail : Detail
  count  : Nat
deriving DecidableEq, Repr

/-- A stored record: the report with its sequence number and its enqueue stamp (R143, R146). -/
structure EvRecord where
  report : Report
  seqNo  : Byte
  stamp  : Word
deriving DecidableEq, Repr

/-- The Event Unit (R143). -/
structure EventUnit where
  queue     : List EvRecord := []
  seqNo     : Byte := 0
  lostCount : Nat := 0
  lost      : Bool := false
  evw       : Words4 := {}
  summary   : BitVec 8 := 0
  intEn     : BitVec 9 := 0
  thresh    : Nat := 1
  age       : Nat := 0
deriving DecidableEq, Repr

/-! ### Timebase (TB) and output pins -/

/-- The timebase (R174, R175). -/
structure Timebase where
  divider   : Nat := 0
  tickCount : Word := 0
deriving DecidableEq, Repr

/-- What the part drives on one port link: READY on a capture port, VALID, MARK and data on a replay port
(R75, R79, R85). -/
structure LinkPins where
  ready : Bool := false
  valid : Bool := false
  mark  : Bool := false
  data  : Word := 0
deriving DecidableEq, Repr

/-- The output pins: INT_N (`true` is high, deasserted) and the part's side of the four links. -/
structure Pins where
  intN  : Bool := true
  links : Quad LinkPins := ⟨{}, {}, {}, {}⟩
deriving DecidableEq, Repr

/-! ### The whole part -/

/-- The state of the part. `pending` is the queue of commands that wait, first in first out, and `freeIndex`
numbers the free values used so far: both are the model's own. `held` says that the part is held in a power-on
or pin reset (R177), with the cause its release will report. -/
structure State where
  pending   : List Instr := []
  held      : Option ResetCause := none
  hp        : HostPort := {}
  sc        : Setup := {}
  mc        : MemCtl := {}
  ma        : Arbiter := {}
  ports     : Quad Port := ⟨{}, {}, {}, {}⟩
  eu        : EventUnit := {}
  tb        : Timebase := {}
  pins      : Pins := {}
  freeIndex : Nat := 0
deriving DecidableEq, Repr

/-- Why a step can stop with a fault. The manual gives the part no error that stops it (Chapter 11: it has no
error state of its own), so no fault exists: no command of the table raises one. Safe: nothing stops early. -/
inductive Fault where
deriving DecidableEq, Repr

/-- Why a step can be refused. -/
inductive Refusal where
  /-- A command the model gives no meaning: raised only by an arm of `exec`. No arm raises it. Safe. -/
  | notModelled (mnemonic : String)
deriving DecidableEq, Repr

/-- The part right after the release of a power-on reset (Table 10-2, R177, R181): every default above is that
table's power-on column. -/
def State.reset : State := {}

/-- Update the Host Port. -/
def State.updHp (f : HostPort → HostPort) (s : State) : State := { s with hp := f s.hp }

/-- Update the Setup Controller. -/
def State.updSc (f : Setup → Setup) (s : State) : State := { s with sc := f s.sc }

/-- Update the Buffer Memory Controller. -/
def State.updMc (f : MemCtl → MemCtl) (s : State) : State := { s with mc := f s.mc }

/-- Update the Memory Arbiter. -/
def State.updMa (f : Arbiter → Arbiter) (s : State) : State := { s with ma := f s.ma }

/-- Update port p. -/
def State.updPort (p : PortId) (f : Port → Port) (s : State) : State :=
  { s with ports := s.ports.set p (f (s.ports.get p)) }

/-- Update the Event Unit. -/
def State.updEu (f : EventUnit → EventUnit) (s : State) : State := { s with eu := f s.eu }

/-- Update the Timebase. -/
def State.updTb (f : Timebase → Timebase) (s : State) : State := { s with tb := f s.tb }

/-- Update the command sequencer. -/
def State.updSeq (f : Sequencer → Sequencer) (s : State) : State :=
  s.updHp fun h => { h with seq := f h.seq }

/-- Update the memory window. -/
def State.updWin (f : Window → Window) (s : State) : State :=
  s.updHp fun h => { h with win := f h.win }

/-- Port p. -/
def State.port (s : State) (p : PortId) : Port := s.ports.get p

/-- The configuration words of port p. -/
def State.pcfg (s : State) (p : PortId) : PortCfg := s.sc.cfg.ports.get p

end Sys2Proof.Machine
end

