-- ==== Sys2Proof/Machine/Operands.lean ====
section
/-! DEFINITION. Operand forms: bit fields of words, the fields of the configuration space (Table 2-1), the codes of
the register encodings, the operands of a CMD write, and the argument layouts of SEG_POST and the memory commands. -/

namespace Sys2Proof.Machine

/-! ### Words and their fields -/

/-- The number in bits `lo + len - 1 : lo` of a word. -/
def bits (w : Word) (lo len : Nat) : Nat := (w.extractLsb' lo len).toNat

/-- Bit `i` of a word. -/
def flag (w : Word) (i : Nat) : Bool := w.getLsbD i

/-- A word laid out from numbers and the positions of their lowest bits. -/
def pack : List (Nat × Nat) → Word
  | [] => 0
  | (lo, v) :: fs => BitVec.ofNat 16 (v * 2 ^ lo) ||| pack fs

/-- Bits 15:0 and 31:16 of a number, as two words. -/
def lowWord (n : Nat) : Word := BitVec.ofNat 16 n

/-- Bits 31:16 of a number. -/
def highWord (n : Nat) : Word := BitVec.ofNat 16 (n / 65536)

/-- A counter that stops at its largest value (Introduction, "Numbers and ranges"). -/
def saturate (top n : Nat) : Nat := if n < top then n + 1 else n

/-! ### Identity (R2) -/

/-- ID_VENDOR. -/
def idVendor : Word := 0xC31A
/-- ID_PART. -/
def idPart : Word := 0x0440
/-- ID_REV. -/
def idRev : Word := 0x0002

/-! ### Ports -/

/-- The ports in port order. -/
def allPorts : List PortId := [.p0, .p1, .p2, .p3]

/-- A port's number. -/
def portIndex : PortId → Nat
  | .p0 => 0
  | .p1 => 1
  | .p2 => 2
  | .p3 => 3

/-- The port that a two-bit number names. -/
def portOf (n : BitVec 2) : PortId :=
  match n.toNat with
  | 0 => .p0
  | 1 => .p1
  | 2 => .p2
  | _ => .p3

/-! ### Fields of the configuration space (Table 2-1) -/

/-- Port direction (R29). -/
inductive Dir where
  | capture | replay
deriving DecidableEq, Repr

/-- FLOW policy as it acts (R30). On a capture port DROP, STALL, FAULT are codes 0, 1, 2; on a replay port FILL
and HOLD are codes 0 and 1. ARM refuses every other code. -/
inductive Flow where
  | drop | stall | fault | fill | hold
deriving DecidableEq, Repr

/-- MEM_GEOM size select. -/
def Cfg.sizeSelect (c : Cfg) : Nat := bits c.memGeom 0 2

/-- Memory size in words (R24): 0 for size select 3. -/
def Cfg.memorySize (c : Cfg) : Nat :=
  match c.sizeSelect with
  | 0 => 1048576
  | 1 => 2097152
  | 2 => 4194304
  | _ => 0

/-- The number of INIT_REFRESH steps a sequence performs (R24): a stored 0 or 1 is performed as 2. -/
def Cfg.initCount (c : Cfg) : Nat := max 2 (bits c.memGeom 4 4)

/-- Init order MODE_FIRST. -/
def Cfg.modeFirst (c : Cfg) : Bool := flag c.memGeom 8

/-- REFRESH interval in ticks (R26): a stored 0 acts as 256. -/
def Cfg.interval (c : Cfg) : Nat :=
  match bits c.refresh 0 8 with
  | 0 => 256
  | n => n

/-- REFRESH urgent limit. -/
def Cfg.urgentLimit (c : Cfg) : Nat := bits c.refresh 8 4

/-- REFCLK periods in one tick (R27, R174): a stored 0 is used as 65536. -/
def Cfg.divisor (c : Cfg) : Nat :=
  match c.tickDiv.toNat with
  | 0 => 65536
  | n => n

/-- REFRESH urgent level. -/
def Cfg.refreshUrgentLevel (c : Cfg) : Nat := bits c.arbCtrl 0 5
/-- REFRESH normal level. -/
def Cfg.refreshNormalLevel (c : Cfg) : Nat := bits c.arbCtrl 5 5
/-- HOST level. -/
def Cfg.hostLevel (c : Cfg) : Nat := bits c.arbCtrl 10 5
/-- Fairness enable. -/
def Cfg.fairness (c : Cfg) : Bool := flag c.arbCtrl 15

/-- PCFG.PRESENT. -/
def PortCfg.present (c : PortCfg) : Bool := flag c.pcfg 0
/-- PCFG.DIR. -/
def PortCfg.dir (c : PortCfg) : Dir := if flag c.pcfg 1 then .replay else .capture
/-- PCFG.FLOW as stored. -/
def PortCfg.flowCode (c : PortCfg) : Nat := bits c.pcfg 2 2
/-- PCFG.PARITY is FAULT. -/
def PortCfg.parityFault (c : PortCfg) : Bool := flag c.pcfg 4
/-- PCFG.BURST as stored. -/
def PortCfg.burstCode (c : PortCfg) : Nat := bits c.pcfg 5 3

/-- The FLOW policy a port acts under (R30). DESIGN CHOICE (log entry 15) for the codes ARM refuses. -/
def PortCfg.flow (c : PortCfg) : Flow :=
  match c.dir, c.flowCode with
  | .capture, 0 => .drop
  | .capture, 1 => .stall
  | .capture, _ => .fault
  | .replay, 0 => .fill
  | .replay, _ => .hold

/-- The burst length in words (R30). DESIGN CHOICE (log entry 15) for the codes ARM refuses. -/
def PortCfg.burst (c : PortCfg) : Nat :=
  match c.burstCode with
  | 0 => 4
  | 1 => 8
  | 2 => 16
  | _ => 32

/-- REGION_BASE in units of 1024 words. -/
def PortCfg.baseUnits (c : PortCfg) : Nat := bits c.regionBase 0 12
/-- REGION_SIZE in units of 1024 words. -/
def PortCfg.sizeUnits (c : PortCfg) : Nat := bits c.regionSize 0 13
/-- First word address of the region (R31). -/
def PortCfg.regionFirst (c : PortCfg) : Nat := c.baseUnits * 1024
/-- Words in the region (R31). -/
def PortCfg.regionWords (c : PortCfg) : Nat := c.sizeUnits * 1024
/-- First word address past the region (R31). -/
def PortCfg.regionEnd (c : PortCfg) : Nat := (c.baseUnits + c.sizeUnits) * 1024
/-- Normal watermark. -/
def PortCfg.normalWm (c : PortCfg) : Nat := bits c.wm 0 6
/-- Urgent watermark. -/
def PortCfg.urgentWm (c : PortCfg) : Nat := bits c.wm 8 7
/-- Normal level. -/
def PortCfg.normalLevel (c : PortCfg) : Nat := bits c.levels 0 5
/-- Urgent level. -/
def PortCfg.urgentLevel (c : PortCfg) : Nat := bits c.levels 8 5
/-- LINK_IDLE in ticks. -/
def PortCfg.idleTicks (c : PortCfg) : Nat := bits c.linkIdle 0 8

/-! ### Numeric codes of the register encodings (sections 1.2, 8.3, Table 1-1) -/

/-- DEV_STATUS bits 1:0. -/
def Device.code : Device → Nat
  | .setup => 0
  | .armed => 1
  | .doze => 2

/-- DEV_STATUS bits 3:2. -/
def McState.code : McState → Nat
  | .off => 0
  | .init => 1
  | .ready => 2
  | .sleep => 3

/-- DEV_STATUS bits 9:8. -/
def ResetCause.code : ResetCause → Nat
  | .power => 1
  | .pin => 2
  | .soft => 3

/-- PSTAT bits 2:0. -/
def PState.code : PState → Nat
  | .closed => 0
  | .idle => 1
  | .active => 2
  | .closing => 3
  | .faulted => 4

/-- Table 1-1. -/
def Result.code : Result → Nat
  | .ok => 0
  | .empty => 1
  | .badCode => 2
  | .badPort => 3
  | .badState => 4
  | .queueFull => 5
  | .segRange => 6
  | .segFormat => 7
  | .protectedRange => 8
  | .notAwake => 9
  | .checkFailed => 10
  | .cancelled => 11
  | .badArg => 12

/-- Record kind codes (R145). -/
def EvKind.code : EvKind → Nat
  | .segDone => 1
  | .segShort => 2
  | .segAborted => 3
  | .segCancelled => 4
  | .guard => 5
  | .overrun => 6
  | .underrun => 7
  | .linkIdle => 8
  | .parity => 9
  | .portClosed => 10
  | .portFault => 11
  | .refreshLost => 12
  | .evqLost => 13
  | .memReady => 14

/-- Record source codes (R144). -/
def Source.code : Source → Nat
  | .port p => portIndex p
  | .mem => 4
  | .host => 5
  | .sys => 6

/-- Record detail codes (R145). -/
def Detail.code : Detail → Nat
  | .noDetail => 0
  | .markEnd => 1
  | .close => 2
  | .closeIdle => 3
  | .hostAbort => 4
  | .fault => 5
  | .flush => 6
  | .abort => 7
  | .overrun => 8
  | .parity => 9

/-- The four words of a record (R144). -/
def EvRecord.words (r : EvRecord) : Words4 :=
  { w0 := pack [(0, r.report.kind.code), (4, r.report.source.code), (8, r.seqNo.toNat)]
    w1 := pack [(0, r.report.tag.toNat), (8, r.report.detail.code)]
    w2 := lowWord r.report.count
    w3 := highWord r.report.count }

/-! ### Register offsets (section 1.2) -/

def offDevCtrl : BitVec 6 := 0x04
def offCmd : BitVec 6 := 0x05
def offXenSet : BitVec 6 := 0x14
def offXenClr : BitVec 6 := 0x15
def offSummary : BitVec 6 := 0x16
def offEvqPop : BitVec 6 := 0x19
def offEvqThresh : BitVec 6 := 0x1E
def offWinAddrLo : BitVec 6 := 0x20
def offWinAddrHi : BitVec 6 := 0x21
def offWinData : BitVec 6 := 0x22
def offCfgData : BitVec 6 := 0x25

/-! ### The operands of a CMD write (R7, R156) -/

/-- The commands of Table 9-1. -/
inductive Cmd where
  | nop | arm | disarm | doze | wake | portOpen | portClose | portAbort | segPost | segFlush | queueStatus
  | markRead | memFill | regionCrc
deriving DecidableEq, Repr

/-- Table 9-1: the command a code names. -/
def cmdOf (code : Byte) : Option Cmd :=
  match code.toNat with
  | 0x00 => some .nop
  | 0x10 => some .arm
  | 0x11 => some .disarm
  | 0x12 => some .doze
  | 0x13 => some .wake
  | 0x20 => some .portOpen
  | 0x21 => some .portClose
  | 0x22 => some .portAbort
  | 0x30 => some .segPost
  | 0x31 => some .segFlush
  | 0x32 => some .queueStatus
  | 0x33 => some .markRead
  | 0x40 => some .memFill
  | 0x41 => some .regionCrc
  | _ => none

/-- The word a host writes to CMD for a row of Table 9-1: the row's code in bits 7:0. -/
def cmdWord (high : Byte) (code : Byte) : Word := high ++ code

/-- The commands that take a port (R8, Table 9-1). -/
def Cmd.takesPort : Cmd → Bool
  | .portOpen | .portClose | .portAbort | .segPost | .segFlush | .queueStatus | .markRead => true
  | .nop | .arm | .disarm | .doze | .wake | .memFill | .regionCrc => false

/-- The ARG registers by number. -/
def Args.get (a : Args) : Nat → Word
  | 0 => a.a0
  | 1 => a.a1
  | 2 => a.a2
  | 3 => a.a3
  | 4 => a.a4
  | 5 => a.a5
  | 6 => a.a6
  | _ => a.a7

/-- Write one ARG register. -/
def Args.set (a : Args) (n : Nat) (w : Word) : Args :=
  match n with
  | 0 => { a with a0 := w }
  | 1 => { a with a1 := w }
  | 2 => { a with a2 := w }
  | 3 => { a with a3 := w }
  | 4 => { a with a4 := w }
  | 5 => { a with a5 := w }
  | 6 => { a with a6 := w }
  | _ => { a with a7 := w }

/-- A quantity split across two registers: bits 15:0 in the first, `len` more from bit 0 of the second. -/
def splitNumber (lo hi : Word) (len : Nat) : Nat := lo.toNat + bits hi 0 len * 65536

/-! ### SEG_POST arguments (R165) -/

/-- HAS_GUARD. -/
def hasGuard (a : Args) : Bool := flag a.a0 12
/-- HAS_REPEAT. -/
def hasRepeat (a : Args) : Bool := flag a.a0 13

/-- The must-be-zero bits of Table 9-2 that are tested are all 0. -/
def segPostZeros (a : Args) : Bool :=
  bits a.a0 14 2 == 0 && bits a.a2 6 10 == 0 && bits a.a4 6 10 == 0 &&
    (!hasGuard a || bits a.a6 6 10 == 0) && (!hasRepeat a || bits a.a7 8 8 == 0)

/-- The descriptor that the latched arguments describe (Table 9-2). -/
def segPostDesc (a : Args) : Desc :=
  { tag := a.a0.setWidth 8
    start := splitNumber a.a1 a.a2 6
    length := splitNumber a.a3 a.a4 6
    notify := flag a.a0 8
    stop := flag a.a0 9
    recycle := flag a.a0 10
    last := flag a.a0 11
    guard := if hasGuard a then some (splitNumber a.a5 a.a6 6) else none
    rpt := if hasRepeat a then some (bits a.a7 0 8) else none }

/-- SEG_POST's format check (R166, stage 1). -/
def segFormatOk (dir : Dir) (a : Args) : Bool :=
  let d := segPostDesc a
  segPostZeros a && d.length != 0 && d.guard.all (· < d.length) &&
    (d.rpt.isNone || dir == .replay) && d.rpt.all (· != 0)

/-- How many times a replay descriptor is played (R96): an absent repeat is 1. -/
def Desc.repeats (d : Desc) : Nat := d.rpt.getD 1

/-! ### Memory command arguments (R170) -/

/-- The must-be-zero bits of a memory command's arguments are 0. -/
def memArgZeros (a : Args) : Bool := bits a.a2 6 10 == 0 && bits a.a4 7 9 == 0

/-- Start address. -/
def memArgStart (a : Args) : Nat := splitNumber a.a1 a.a2 6

/-- Count. -/
def memArgCount (a : Args) : Nat := splitNumber a.a3 a.a4 7

/-- A memory command's arguments pass the BAD_ARG check (R170, check 1). -/
def memArgOk (size : Nat) (a : Args) : Bool :=
  memArgZeros a && memArgCount a != 0 && decide (memArgStart a + memArgCount a ≤ size)

/-! ### Cells of buffer memory (R41, R24) -/

/-- The cell that a driven address reaches: the upper address lines reach no device pins beyond the attached
device's capacity. -/
def cellOf (addr : Nat) : Nat :=
  match Config.attachedSelect with
  | 0 => addr % 1048576
  | 1 => addr % 2097152
  | 2 => addr % 4194304

end Sys2Proof.Machine
end

