-- ==== Sys2Proof/Machine/Flags.lean ====
section
/-! DEFINITION. Flags and status words: parity (R42), the CRC (R172), the status registers (R2), the window's and
SUMMARY's sticky bits, the interrupt level (R152 to R154), and what each port drives on its link (R79, R85). -/

namespace Sys2Proof.Machine

/-! ### Parity (R42, R53, R54) -/

/-- The exclusive-OR of bits `len - 1 : 0`. -/
def xorBits (w : Word) : Nat → Bool
  | 0 => false
  | n + 1 => xor (w.getLsbD n) (xorBits w n)

/-- The parity bit that gives a byte and the bit together an odd number of 1s (R42). -/
def parityBit (w : Word) (lane : Nat) : Bool := !xorBits (BitVec.ofNat 16 (bits w (8 * lane) 8)) 8

/-- The two parity bits generated for a word being written (R53). -/
def parityOf (w : Word) : BitVec 2 :=
  BitVec.ofNat 2 ((parityBit w 0).toNat + 2 * (parityBit w 1).toNat)

/-- The parity check of a word read marks it bad when either byte fails (R54). -/
def isBad (m : MemWord) : Bool := m.parity != parityOf m.data

/-! ### CRC (R172) -/

/-- Feed one data bit. -/
def crcBit (crc : Word) (b : Bool) : Word :=
  let shifted := crc <<< 1
  if xor (crc.getLsbD 15) b then shifted ^^^ 0x1021 else shifted

/-- Feed bits `n - 1 : 0` of a word, highest first. -/
def crcBits (w : Word) : Nat → Word → Word
  | 0, crc => crc
  | n + 1, crc => crcBits w n (crcBit crc (w.getLsbD n))

/-- Feed one word, bit 15 down to bit 0. -/
def crcWord (crc w : Word) : Word := crcBits w 16 crc

/-! ### Sticky bits -/

/-- Bits of SUMMARY (R150). -/
def summaryCmd : BitVec 8 := 0x10
def summaryPFault : BitVec 8 := 0x20
def summaryMem : BitVec 8 := 0x40
def summaryLost : BitVec 8 := 0x80

/-- SUMMARY.STOP(p). -/
def summaryStop : PortId → BitVec 8
  | .p0 => 0x01
  | .p1 => 0x02
  | .p2 => 0x04
  | .p3 => 0x08

/-- Error bits of WIN_STATUS (bit 8 of the register is bit 0 here). -/
def winRange : BitVec 7 := 0x01
def winProtect : BitVec 7 := 0x02
def winOverflow : BitVec 7 := 0x04
def winUnderflow : BitVec 7 := 0x08
def winParity : BitVec 7 := 0x10
def winNotReady : BitVec 7 := 0x20
def winConflict : BitVec 7 := 0x40

/-! ### Status registers (R2, section 1.2) -/

/-- DEV_STATUS. -/
def devStatus (s : State) : Word :=
  pack [(0, s.sc.device.code), (2, s.mc.state.code), (4, s.mc.memSuspect.toNat), (5, s.sc.resetPending.toNat),
    (6, s.hp.cfgLocked.toNat), (8, s.sc.resetCause.code)]

/-- CMD_STATUS. -/
def cmdStatus (q : Sequencer) : Word :=
  pack [(0, q.running.isSome.toNat), (1, q.done.toNat), (2, q.overlap.toNat), (4, q.result.code)]

/-- XEN, bits 3:0. -/
def xenWord (q : Quad Port) : Word :=
  pack [(0, q.p0.xen.toNat), (1, q.p1.xen.toNat), (2, q.p2.xen.toNat), (3, q.p3.xen.toNat)]

/-- EVQ_STATUS. -/
def evqStatus (e : EventUnit) : Word :=
  pack [(0, e.queue.length), (6, e.lost.toNat), (8, e.lostCount)]

/-- WIN_STATUS. -/
def winStatus (w : Window) : Word :=
  pack [(0, (match w.latch with | .ready _ => 1 | .empty => 0 | .pending => 0)), (1, w.wbuf.isSome.toNat),
    (8, w.errors.toNat)]

/-- PSTATp. -/
def pstat (p : Port) : Word :=
  pack [(0, p.state.code), (3, p.queue.length), (7, p.fifo.length), (14, p.idleDeclared.toNat)]

/-- The configuration word that an index names (R17, Table 2-1); MEM_CTRL reads the controller state. -/
def cfgWord (s : State) : Word :=
  let c := s.sc.cfg
  let per (k : PortCfg) : Nat → Word
    | 0 => k.pcfg
    | 1 => k.regionBase
    | 2 => k.regionSize
    | 3 => k.wm
    | 4 => k.levels
    | 5 => k.linkIdle
    | 6 => k.fillWord
    | _ => 0
  match s.hp.cfgIndex.toNat with
  | 0 => c.memGeom
  | 1 => pack [(0, s.mc.state.code)]
  | 2 => c.refresh
  | 3 => c.tickDiv
  | 4 => c.arbCtrl
  | i =>
    if i < 8 then 0
    else if i < 40 then per (c.ports.get (portOf (BitVec.ofNat 2 ((i - 8) / 8)))) ((i - 8) % 8)
    else 0

/-! ### Interrupt (R152 to R154) -/

/-- The age of the oldest record reaches EVQ_AGE (R154). -/
def ageCondition (e : EventUnit) (tickCount : Word) : Bool :=
  match e.queue with
  | [] => false
  | r :: _ => e.age != 0 && decide (e.age ≤ (tickCount - r.stamp).toNat)

/-- The EVQ trigger (R153). -/
def evqTrigger (e : EventUnit) (tickCount : Word) : Bool :=
  decide (e.thresh ≤ e.queue.length) || ageCondition e tickCount || e.lost

/-- INT_N is asserted, driven low (R152). -/
def intAsserted (e : EventUnit) (tickCount : Word) : Bool :=
  (e.summary &&& e.intEn.setWidth 8) != 0 || (e.intEn.getLsbD 8 && evqTrigger e tickCount)

/-! ### The links (R75, R79, R85) -/

/-- The port is open and accepts or sends beats: IDLE or ACTIVE. -/
def PState.working : PState → Bool
  | .idle | .active => true
  | .closed | .closing | .faulted => false

/-- READY of a capture port (R79). -/
def readyPin (c : PortCfg) (x : Port) : Bool :=
  x.state.working && (decide (x.fifo.length < 64) || c.flow != .stall)

/-- VALID, MARK and data of a replay port (R85). -/
def replayPins (c : PortCfg) (x : Port) : LinkPins :=
  match x.state, x.fifo with
  | .active, e :: _ => { valid := true, mark := e.mark, data := e.word }
  | .closing, e :: _ => { valid := true, mark := e.mark, data := e.word }
  | .active, [] => if c.flow == .fill then { valid := true, data := c.fillWord } else {}
  | .closing, [] => {}
  | .closed, _ => {}
  | .idle, _ => {}
  | .faulted, _ => {}

/-- What a port drives on its link; the direction follows DIR from the moment the port is opened (R75). -/
def linkPins (c : PortCfg) (x : Port) : LinkPins :=
  match c.dir with
  | .capture => { ready := readyPin c x }
  | .replay => replayPins c x

end Sys2Proof.Machine
end

