-- ==== Sys2Proof/Machine/Ops.lean ====
section
/-! DEFINITION. The shared operations: buffer memory (R41 to R55), posting (R146, R147), the end of a command (R8),
requests (R51, R60, R61, R91, R92), the settling of the part after an event, and the port lifecycle (R100 to R136).
Each takes the state last, so that a rule's steps read in their order. -/

namespace Sys2Proof.Machine

/-! ### Buffer memory -/

/-- The stored word of a cell, if it has been written since the contents were last lost. -/
def memLookup : Memory → Nat → Option MemWord
  | [], _ => none
  | (a, m) :: t, c => if a = c then some m else memLookup t c

/-- Store a word in a cell, keeping the cells strictly rising. -/
def memStore : Memory → Nat → MemWord → Memory
  | [], c, m => [(c, m)]
  | (a, x) :: t, c, m =>
    if c < a then (c, m) :: (a, x) :: t
    else if c = a then (c, m) :: t
    else (a, x) :: memStore t c m

/-- The canonical form: cells strictly rising and within 22 address bits, and every written word with good
parity (R53, R55). -/
def Memory.wf : Memory → Bool
  | [] => true
  | (a, m) :: t => decide (a < 4194304) && !isBad m && t.all (fun e => decide (a < e.1)) && Memory.wf t

/-- Write words at rising addresses, each with fresh parity (R48, R53). -/
def memWrite (m : Memory) (addr : Nat) : List Word → Memory
  | [] => m
  | w :: ws => memWrite (memStore m (cellOf addr) ⟨w, parityOf w⟩) (addr + 1) ws

/-- Read one word (R54). An unwritten word reads as the free value number `free` (R55; log entry 3). -/
def memRead (m : Memory) (free addr : Nat) : MemWord :=
  match memLookup m (cellOf addr) with
  | some w => w
  | none => ⟨Config.unwrittenData free, Config.unwrittenParity free⟩

/-- Read `n` words at rising addresses. -/
def memReads (m : Memory) (free addr n : Nat) : List MemWord :=
  (List.range n).map fun k => memRead m (free + k) (addr + k)

/-- The memory effect of a write transaction, all at once (R48). -/
def writeMemory (addr : Nat) (ws : List Word) (s : State) : State :=
  s.updMc fun m => { m with mem := memWrite m.mem addr ws }

/-- Count `n` words read: each read of a word uses one free-value number, used or not (log entry 3). -/
def countReads (n : Nat) (s : State) : State := { s with freeIndex := s.freeIndex + n }

/-! ### Event Unit -/

/-- Set bits of SUMMARY (R150). -/
def setSummary (b : BitVec 8) (s : State) : State :=
  s.updEu fun e => { e with summary := e.summary ||| b }

/-- Store a record at the tail with the next sequence number and a stamp (R146). -/
def storeRecord (r : Report) (stamp : Word) (e : EventUnit) : EventUnit :=
  { e with
    queue := e.queue ++ [⟨{ r with count := min r.count 4294967295 }, e.seqNo, stamp⟩]
    seqNo := e.seqNo + 1 }

/-- Refuse a record: the queue holds 32 (R147). -/
def refuseRecord (e : EventUnit) : EventUnit :=
  { e with lostCount := saturate 255 e.lostCount, lost := true, summary := e.summary ||| summaryLost }

/-- The posting step (R146, R147). -/
def post (r : Report) (s : State) : State :=
  s.updEu fun e => if e.queue.length < 32 then storeRecord r s.tb.tickCount e else refuseRecord e

/-- Post a record of port p. -/
def postPort (p : PortId) (kind : EvKind) (tag : Byte) (detail : Detail) (count : Nat) (s : State) : State :=
  post ⟨kind, .port p, tag, detail, count⟩ s

/-! ### Commands -/

/-- The completion step of a command (R8). -/
def finish (r : Result) (res : Words4) (s : State) : State :=
  setSummary summaryCmd
    (s.updSeq fun q => { q with res := res, result := r, running := none, done := true })

/-- A memory command is running: the sequencer is BUSY with MEM_FILL or REGION_CRC (section 1.5). -/
def memCommandRunning (s : State) : Bool :=
  match s.hp.seq.running with
  | some (.memFill _ _) => true
  | some (.regionCrc _ _ _) => true
  | some (.portAbort _) => false
  | some .doze => false
  | none => false

/-- The RES contents of a memory command at its end (R171, R172). -/
def memCommandRes : Running → Words4
  | .memFill j _ => { w2 := lowWord j.covered, w3 := highWord j.covered }
  | .regionCrc j crc errors =>
    { w0 := crc, w1 := BitVec.ofNat 16 errors, w2 := lowWord j.covered, w3 := highWord j.covered }
  | .portAbort _ => {}
  | .doze => {}

/-- End the running memory command with a result (R173). -/
def endMemCommand (r : Result) (s : State) : State :=
  match s.hp.seq.running with
  | some c => finish r (memCommandRes c) s
  | none => s

/-- The words of a memory command's next chunk (R69). -/
def Job.chunk (j : Job) : Nat := min 16 (j.count - j.covered)

/-- The job of the running memory command. -/
def jobOf (s : State) : Option Job :=
  match s.hp.seq.running with
  | some (.memFill j _) => some j
  | some (.regionCrc j _ _) => some j
  | some (.portAbort _) => none
  | some .doze => none
  | none => none

/-- A PORT_ABORT of port p waits (R133). -/
def abortWaits (s : State) (p : PortId) : Bool := s.hp.seq.running == some (.portAbort p)

/-! ### Transactions in flight -/

/-- A memory command's chunk is in flight: a burst granted to HOST (R10, R47). -/
def chunkGranted (s : State) : Bool :=
  match s.mc.flight with
  | some f => f.who == .host && (f.kind == .writeBurst || f.kind == .readBurst)
  | none => false

/-- Port p has a transaction of its own in flight; an orphan does not count (R114, R133). -/
def liveFlight (s : State) (p : PortId) : Bool :=
  match s.mc.flight with
  | some f => f.who == .port p && !f.orphan
  | none => false

/-- The transaction in flight of port p, if any, becomes an orphan (R114). -/
def orphanFlight (p : PortId) (s : State) : State :=
  s.updMc fun m => { m with flight := m.flight.map fun f => if f.who = .port p then { f with orphan := true } else f }

/-! ### Requests -/

/-- Words remaining in a capture descriptor (R67). -/
def QEntry.remaining (e : QEntry) : Nat := e.desc.length - e.progress

/-- A capture port's request (R91). -/
def captureRequest (c : PortCfg) (x : Port) : Option Urgency :=
  match x.queue with
  | [] => none
  | h :: _ =>
    let fill := x.fifo.length
    if (x.state == .active || x.state == .closing) && decide (1 ≤ fill) &&
        (decide (c.normalWm ≤ fill) || decide (h.remaining ≤ fill) ||
          (h.desc.last && x.fifo.any (·.mark)) || x.idleDeclared || x.state == .closing) then
      some (if c.urgentWm ≤ fill then .urgent else .normal)
    else none

/-- Free space of a replay FIFO (R78). -/
def Port.freeSpace (x : Port) : Nat := 64 - x.fifo.length - x.reservation

/-- The entry under the fetch cursor. -/
def Port.fetched (x : Port) : Option (Cursor × QEntry) :=
  match x.fetch with
  | some c =>
    match x.queue[c.pos]? with
    | some e => some (c, e)
    | none => none
  | none => none

/-- A replay port's request (R92). -/
def replayRequest (c : PortCfg) (x : Port) : Option Urgency :=
  match x.fetched with
  | some (cur, e) =>
    if x.state == .active && x.stopBlock == .clear &&
        decide (min c.normalWm (e.desc.length - cur.off) ≤ x.freeSpace) then
      some (if c.urgentWm ≤ x.freeSpace then .urgent else .normal)
    else none
  | none => none

/-- A port's own request; a port whose abort waits makes none (R91, R92, R133). -/
def requestOf (c : PortCfg) (aborting : Bool) (x : Port) : Option Urgency :=
  if aborting then none
  else match c.dir with
    | .capture => captureRequest c x
    | .replay => replayRequest c x

/-- The REFRESH request (R51), by the stored limit as it stands: a change of the limit acts at once (R34, R51, and R26's
example, "From now on"). DESIGN CHOICE (log entry 19): another sentence of R26 has it act from the next tick. -/
def refreshRequest (s : State) : Option Urgency :=
  if s.mc.state == .ready && decide (1 ≤ s.mc.owed) then
    some (if s.sc.cfg.urgentLimit ≤ s.mc.owed then .urgent else .normal)
  else none

/-- What HOST requests (R16, R69): the window's write first, then a memory command's chunk, then the prefetch. -/
inductive HostWork where
  | wordWrite (b : Buffered)
  | fillChunk (j : Job) (pattern : Word)
  | crcChunk (j : Job)
  | wordRead (addr : BitVec 22)
deriving DecidableEq, Repr

/-- The HOST request (R16, R60, R170). -/
def hostRequest (s : State) : Option HostWork :=
  match s.hp.win.wbuf with
  | some b => some (.wordWrite b)
  | none =>
    match s.hp.seq.running with
    | some (.memFill j pattern) => some (.fillChunk j pattern)
    | some (.regionCrc j _ _) => some (.crcChunk j)
    | some (.portAbort _) => if s.hp.win.latch = .pending then some (.wordRead s.hp.win.addr) else none
    | some .doze => if s.hp.win.latch = .pending then some (.wordRead s.hp.win.addr) else none
    | none => if s.hp.win.latch = .pending then some (.wordRead s.hp.win.addr) else none

/-- A port's request, if the arbiter admits it: XEN(p) is 1 or the port is CLOSING (R61). -/
def Port.gated (x : Port) : Option Urgency :=
  if x.xen || x.state == .closing then x.request else none

/-! ### Settling the part after an event -/

/-- The stop block is released once its STOP descriptor has left the queue and XEN(p) is 1 (R109). -/
def Port.releaseStop (x : Port) : Port :=
  if x.stopBlock = .left ∧ x.xen = true then { x with stopBlock := .clear } else x

/-- A port's request as it stands after an event, its stop block released first (R91, R92, R109). -/
def settlePort (c : PortCfg) (aborting : Bool) (x : Port) : Port :=
  { x.releaseStop with request := requestOf c aborting x.releaseStop }

/-- Every port's request evaluated again. -/
def settlePorts (s : State) : State :=
  { s with ports := s.ports.map fun p x => settlePort (s.pcfg p) (abortWaits s p) x }

/-- The output pins of a state (R79, R85, R152). -/
def pinsOf (s : State) : Pins :=
  { intN := !intAsserted s.eu s.tb.tickCount
    links := s.ports.map fun p x => linkPins (s.pcfg p) x }

/-- After an event or an end-of-instant step, requests and pins follow the state (section 5.6, R79, R85, R142,
R152). -/
def settle (s : State) : State :=
  { settlePorts s with pins := pinsOf (settlePorts s) }

/-- One event of the part, processed to completion; a part held in reset processes no event (R141, R177). -/
def event (f : State → State) (s : State) : Host.Outcome State Fault Refusal :=
  .next (if s.held.isSome then s else settle (f s))

/-! ### The memory window -/

/-- Set WIN_STATUS error bits. -/
def setWinError (b : BitVec 7) (s : State) : State :=
  s.updWin fun w => { w with errors := w.errors ||| b }

/-- Discard the prefetch latch (R13): a WORD_READ already granted completes, and its word is thrown away. -/
def discardLatch (s : State) : State :=
  (s.updWin fun w => { w with latch := .empty }).updMc fun m =>
    { m with flight := m.flight.map fun f => if f.kind = .wordRead then { f with orphan := true } else f }

/-- The PENDING prefetch has been granted: its WORD_READ is in flight. -/
def prefetchGranted (s : State) : Bool :=
  match s.mc.flight with
  | some f => f.kind == .wordRead && !f.orphan
  | none => false

/-- The PENDING write buffer has been granted: its WORD_WRITE is in flight. -/
def writeGranted (s : State) : Bool :=
  match s.mc.flight with
  | some f => f.kind == .wordWrite
  | none => false

/-- The memory controller leaves READY: a PENDING prefetch not granted is dropped silently (R13), a PENDING write
not granted is lost with NOT_READY (R16). -/
def dropWindow (s : State) : State :=
  let s1 := if s.hp.win.latch = .pending ∧ prefetchGranted s = false then
      s.updWin fun w => { w with latch := .empty } else s
  if s1.hp.win.wbuf.isSome ∧ writeGranted s1 = false then
    setWinError winNotReady (s1.updWin fun w => { w with wbuf := none }) else s1

/-! ### Outcomes and the queue -/

/-- Post CANCELLED, count 0, for each entry in queue order (R100, R115). -/
def cancelAll (p : PortId) (detail : Detail) : List QEntry → State → State
  | [], s => s
  | e :: es, s => cancelAll p detail es (postPort p .segCancelled e.desc.tag detail 0 s)

/-- What a close, an abandonment, an abort or a fault gives the in-progress descriptor: one outcome when it has
moved a word, CANCELLED when it has not (R115). -/
structure Ending where
  kind      : EvKind
  detail    : Detail
  cancelled : Detail

/-- R128, R129. -/
def endClose : Ending := ⟨.segShort, .close, .close⟩
/-- R130. -/
def endAbandon : Ending := ⟨.segShort, .closeIdle, .close⟩
/-- R134. -/
def endAbort : Ending := ⟨.segAborted, .hostAbort, .abort⟩
/-- R135. -/
def endFault : Ending := ⟨.segAborted, .fault, .fault⟩

/-- Give every queued descriptor its outcome, the head's first (R128, R129, R130, R134, R135, steps 1 and 2).
The caller empties the queue. -/
def endWork (p : PortId) (how : Ending) (s : State) : State :=
  match (s.port p).queue with
  | [] => s
  | h :: t =>
    cancelAll p how.cancelled t
      (if h.progress = 0 then postPort p .segCancelled h.desc.tag how.cancelled 0 s
       else postPort p how.kind h.desc.tag how.detail h.progress s)

/-- The head has left the queue: positions move up by one. -/
def StopBlock.shift : StopBlock → StopBlock
  | .clear => .clear
  | .waiting 0 => .left
  | .waiting (n + 1) => .waiting n
  | .left => .left

/-- Every entry has left the queue. -/
def StopBlock.emptied : StopBlock → StopBlock
  | .clear => .clear
  | .waiting _ => .left
  | .left => .left

/-- Entry to IDLE (R101). -/
def Port.enterIdle (x : Port) : Port :=
  { x with state := .idle, idleCount := 0, idleDeclared := false, underrun := false }

/-- An ACTIVE port whose queue is empty becomes IDLE (R101). -/
def Port.idleIfEmpty (x : Port) : Port :=
  if x.state = .active ∧ x.queue = [] then x.enterIdle else x

/-- Append an entry; a replay cursor at tail moves onto it (R99, R107, R121). -/
def Port.append (dir : Dir) (d : Desc) (x : Port) : Port :=
  { x with
    queue := x.queue ++ [{ desc := d }]
    fetch := if dir = .replay ∧ x.fetch = none then some ⟨x.queue.length, 1, 0⟩ else x.fetch }

/-- Remove the head from the queue. -/
def Port.dropHead (x : Port) : Port :=
  { x with
    queue := x.queue.tail
    fetch := x.fetch.map fun c => { c with pos := c.pos - 1 }
    stopBlock := x.stopBlock.shift }

/-- The head receives DONE: its record if it has NOTIFY or STOP, the STOP effects, a RECYCLE copy unless the port
is CLOSING, and IDLE if the queue is now empty (R106 and R113, steps 3 to 6; R116, R119, R121). -/
def doneHead (p : PortId) (detail : Detail) (s : State) : State :=
  match (s.port p).queue with
  | [] => s
  | h :: _ =>
    let s1 := if h.desc.notify || h.desc.stop then postPort p .segDone h.desc.tag detail h.progress s else s
    let s2 := s1.updPort p Port.dropHead
    let s3 := if h.desc.stop then
        setSummary (summaryStop p) (s2.updPort p fun x => { x with xen := false }) else s2
    let s4 := if h.desc.recycle && (s.port p).state != .closing then
        s3.updPort p (Port.append (s.pcfg p).dir h.desc) else s3
    s4.updPort p Port.idleIfEmpty

/-! ### Port lifecycle -/

/-- What a port keeps when it enters CLOSED: the mark log and the counters (R132). -/
def Port.closed (x : Port) : Port :=
  { drop := x.drop, fill := x.fill, marks := x.marks, overwrites := x.overwrites }

/-- A port's fairness state becomes OPEN (R72). -/
def openFairness (p : PortId) (s : State) : State :=
  s.updMa fun a => { a with ports := a.ports.set p .opened }

/-- Entry into CLOSED with its PORT_CLOSED record (R132). -/
def enterClosed (p : PortId) (detail : Detail) (count : Nat) (s : State) : State :=
  openFairness p ((postPort p .portClosed 0 detail count s).updPort p Port.closed)

/-- The end of a drain (R128, R129): on a replay drain the residue is 0, since its FIFO is empty. -/
def closeEnd (p : PortId) (s : State) : State :=
  enterClosed p .close (s.port p).fifo.length (endWork p endClose s)

/-- A drain has reached its end (R127, R129). -/
def drainEnded (s : State) (p : PortId) : Bool :=
  let x := s.port p
  match (s.pcfg p).dir with
  | .capture => !liveFlight s p && (x.fifo.isEmpty || x.queue.isEmpty)
  | .replay => x.fifo.isEmpty && x.reservation == 0

/-- The end test of a close, made at every event that can change it (R127, R129). -/
def closeTest (p : PortId) (s : State) : State :=
  if (s.port p).state = .closing ∧ drainEnded s p = true then closeEnd p s else s

/-- A replay close abandoned on link idle (R130). -/
def abandon (p : PortId) (s : State) : State :=
  enterClosed p .closeIdle (s.port p).fifo.length (orphanFlight p (endWork p endAbandon s))

/-- Execution of an abort (R134, R136). -/
def abortPort (p : PortId) (s : State) : State :=
  match (s.port p).state with
  | .closed => s
  | .faulted => enterClosed p .abort 0 s
  | .idle => enterClosed p .abort (s.port p).fifo.length (endWork p endAbort s)
  | .active => enterClosed p .abort (s.port p).fifo.length (endWork p endAbort s)
  | .closing => enterClosed p .abort (s.port p).fifo.length (endWork p endAbort s)

/-- What a port keeps when it enters FAULTED: the mark log and the counters, and a stop block that was set
(R135, R188). -/
def Port.faulted (x : Port) : Port :=
  { x.closed with state := .faulted, stopBlock := x.stopBlock.emptied }

/-- A fault can strike the port: it is IDLE, ACTIVE or CLOSING (R135). -/
def PState.faultable : PState → Bool
  | .idle | .active | .closing => true
  | .closed | .faulted => false

/-- The tag of the head, or 0 when the queue is empty (R84, R89, R93, R135). -/
def Port.headTag (x : Port) : Byte :=
  match x.queue with
  | [] => 0
  | h :: _ => h.desc.tag

/-- A fault of port p (R135). A WRITE_BURST of the port in flight becomes an orphan (R114). -/
def fault (p : PortId) (cause : Detail) (s : State) : State :=
  let x := s.port p
  if x.state.faultable then
    setSummary summaryPFault
      (postPort p .portFault x.headTag cause x.fifo.length
        ((orphanFlight p (endWork p endFault s)).updPort p Port.faulted))
  else s

/-- A beat has crossed the link (R94). -/
def Port.beatSeen (x : Port) : Port := { x with idleCount := 0, idleDeclared := false }

/-- An overrun episode starts, if none is running (R84). -/
def startOverrun (p : PortId) (s : State) : State :=
  if (s.port p).overrun then s
  else postPort p .overrun (s.port p).headTag .noDetail 0 (s.updPort p fun x => { x with overrun := true })

/-- An underrun episode starts, if none is running (R89). -/
def startUnderrun (p : PortId) (s : State) : State :=
  if (s.port p).underrun then s
  else postPort p .underrun (s.port p).headTag .noDetail 0 (s.updPort p fun x => { x with underrun := true })

/-! ### Memory controller -/

/-- The init step in flight as a transaction of the controller (R45). -/
def initFlight (modeFirst : Bool) (n k : Nat) : Flight :=
  { kind :=
      if k = 0 then .prechargeAll
      else if modeFirst then (if k = 1 then .modeLoad else .initRefresh)
      else (if k = n + 1 then .modeLoad else .initRefresh)
    who := .controller }

/-- Issue PRECHARGE_ALL, reading the count and the order from MEM_GEOM (R45). -/
def issuePrecharge (s : State) : State :=
  s.updMc fun m => { m with
    init := .step s.sc.cfg.initCount s.sc.cfg.modeFirst 0
    flight := some (initFlight s.sc.cfg.modeFirst s.sc.cfg.initCount 0) }

/-- A START that reaches the controller (R44). -/
def startInit (s : State) : State :=
  match s.mc.state with
  | .init => s
  | .sleep => s
  | .off => issuePrecharge (s.updMc fun m => { m with state := .init })
  | .ready =>
    let s1 := dropWindow (s.updMc fun m =>
      { m with state := .init, owed := 0, intervalCount := 0, lossEpisode := false })
    let s2 := if memCommandRunning s && !chunkGranted s then endMemCommand .notAwake s1 else s1
    if s.mc.flight.isSome then s2.updMc fun m => { m with init := .awaiting } else issuePrecharge s2

/-- An attempted rise of owed (R50, step 3; R52). At a refresh loss no word written before it keeps its promise
(R55). -/
def owedRise (s : State) : State :=
  if s.mc.owed < 7 then s.updMc fun m => { m with owed := m.owed + 1 }
  else
    let s1 := s.updMc fun m => { m with memSuspect := true, lossEpisode := true, mem := [] }
    if s.mc.lossEpisode then s1
    else setSummary summaryMem (post ⟨.refreshLost, .mem, 0, .noDetail, 0⟩ s1)

/-- Every subject requester becomes OPEN (R72). -/
def openAll (s : State) : State :=
  s.updMa fun a => { a with host := .opened, ports := ⟨.opened, .opened, .opened, .opened⟩ }

/-- Every port is CLOSED (R39, R160). -/
def allClosed (s : State) : Bool :=
  allPorts.all fun p => (s.port p).state == .closed

/-! ### Resets -/

/-- What a soft reset leaves: Table 10-2's soft-reset column (R180, R181, R58). -/
def softReset (s : State) : State :=
  { State.reset with
    pending := s.pending
    held := s.held
    freeIndex := s.freeIndex
    hp := { dataBus := s.hp.dataBus }
    sc := { cfg := s.sc.cfg, resetCause := .soft }
    mc := { s.mc with
      state := (match s.mc.state with
        | .off => .off
        | .init => .init
        | .ready => .ready
        | .sleep => .ready)
      sleepRequest := false }
    tb := s.tb }

/-- A soft reset request (R178): deferred while a transaction is in flight. -/
def requestSoftReset (s : State) : State :=
  if s.sc.resetPending then s
  else if s.mc.flight.isSome then s.updSc fun c => { c with resetPending := true }
  else softReset s

/-- A CMD_CANCEL request (R10). -/
def requestCancel (s : State) : State :=
  match s.hp.seq.running with
  | some (.memFill j pattern) =>
    if j.cancel then s
    else
      let s1 := s.updSeq fun q => { q with running := some (.memFill { j with cancel := true } pattern) }
      if chunkGranted s then s1 else endMemCommand .cancelled s1
  | some (.regionCrc j crc errors) =>
    if j.cancel then s
    else
      let s1 := s.updSeq fun q => { q with running := some (.regionCrc { j with cancel := true } crc errors) }
      if chunkGranted s then s1 else endMemCommand .cancelled s1
  | some (.portAbort _) => s
  | some .doze => s
  | none => s

end Sys2Proof.Machine
end

