-- ==== Sys2Proof/Machine/Arbitration.lean ====
section
/-! DEFINITION. The end-of-instant steps (R142): the sleep test (R56) and the arbitration point with its grant
(R62 to R69, R108, R109). -/

namespace Sys2Proof.Machine

/-! ### Sleep test (R56) -/

/-- READY, free and owed 0, with the sleep request set. -/
def sleepDue (s : State) : Bool :=
  s.mc.sleepRequest && s.mc.state == .ready && s.mc.flight.isNone && s.mc.owed == 0

/-- Entry into SLEEP (R56, R160, R182). -/
def enterSleep (s : State) : State :=
  let s1 := dropWindow (s.updMc fun m => { m with state := .sleep, sleepRequest := false })
  let s2 := s1.updMc fun m => { m with intervalCount := 0 }
  finish .ok {} (s2.updSc fun c => { c with device := .doze })

/-- SLEEP_ENTRY (R56). -/
def execSleepEntry (s : State) : Host.Outcome State Fault Refusal :=
  event (fun s => if sleepDue s then enterSleep s else s) s

/-! ### Gated requests -/

/-- A gated request: its requester, its urgency and the level it is arbitrated at (R60, R61). -/
structure Candidate where
  who   : Requester
  urg   : Urgency
  level : Nat
deriving DecidableEq, Repr

/-- A requester's gated request, at the level of its urgency (R60). -/
def asking (who : Requester) (request : Option Urgency) (urgentLevel normalLevel : Nat) : List Candidate :=
  match request with
  | some .urgent => [⟨who, .urgent, urgentLevel⟩]
  | some .normal => [⟨who, .normal, normalLevel⟩]
  | none => []

/-- The gated requests in requester index order (R60, R61, R65); HOST's is always NORMAL. -/
def candidates (s : State) : List Candidate :=
  let c := s.sc.cfg
  let port (p : PortId) := asking (.port p) (s.port p).gated (s.pcfg p).urgentLevel (s.pcfg p).normalLevel
  asking .refresh (refreshRequest s) c.refreshUrgentLevel c.refreshNormalLevel ++
    asking .host ((hostRequest s).map fun _ => .normal) c.hostLevel c.hostLevel ++
    port .p0 ++ port .p1 ++ port .p2 ++ port .p3

/-- The fairness state of a subject requester; REFRESH has none (R59). -/
def fairOf (a : Arbiter) : Requester → Fair
  | .refresh => .opened
  | .host => a.host
  | .port p => a.ports.get p
  | .controller => .opened

/-- A subject requester (R64). -/
def Requester.subject : Requester → Bool
  | .refresh => false
  | .host => true
  | .port _ => true
  | .controller => false

/-- Eligible (R63): URGENT, or of a requester that is not HELD. -/
def eligible (a : Arbiter) (c : Candidate) : Bool := c.urg == .urgent || fairOf a c.who == .opened

/-- The release rule applies (R64). -/
def releaseDue (a : Arbiter) (cs : List Candidate) : Bool :=
  !(cs.any fun c => c.who.subject && eligible a c) && cs.any fun c => fairOf a c.who == .held

/-- The release (R64): every HELD requester becomes OPEN together. -/
def release (s : State) : State := if releaseDue s.ma (candidates s) then openAll s else s

/-- The lowest level wins; of equal levels the first in the list, which is in requester index order (R65, R40). -/
def lowest : Candidate → List Candidate → Candidate
  | best, [] => best
  | best, c :: cs => lowest (if c.level < best.level then c else best) cs

/-- The winner of an arbitration point (R65). -/
def winner (a : Arbiter) (cs : List Candidate) : Option Candidate :=
  match cs.filter (eligible a) with
  | [] => none
  | c :: rest => some (lowest c rest)

/-! ### Grants -/

/-- The controller becomes in-transaction and the grant record is filled (R48, R66). -/
def begin (c : Candidate) (f : Flight) (s : State) : State :=
  (s.updMc fun m => { m with flight := some f }).updMa fun a => { a with grant := some ⟨c.who, c.urg⟩ }

/-- The words from the oldest entry up to and including the oldest MARK (R67). -/
def toFirstMark : List FifoWord → Option Nat
  | [] => none
  | e :: es => if e.mark then some 1 else (toFirstMark es).map (· + 1)

/-- The words of a capture burst (R67). -/
def captureCount (k : PortCfg) (x : Port) (h : QEntry) : Nat :=
  let n := min k.burst (min x.fifo.length h.remaining)
  match (if h.desc.last then toFirstMark x.fifo else none) with
  | some m => min n m
  | none => n

/-- A capture port's grant (R67, R102). -/
def grantCapture (c : Candidate) (p : PortId) (s : State) : State :=
  let k := s.pcfg p
  let x := s.port p
  match x.queue with
  | [] => s
  | h :: _ =>
    let n := captureCount k x h
    begin c
      { kind := .writeBurst, who := .port p, addr := k.regionFirst + h.desc.start + h.progress, count := n,
        words := x.fifo.take n }
      (s.updPort p fun y => { y with fifo := y.fifo.drop n })

/-- The words of a replay burst (R68). -/
def replayCount (k : PortCfg) (x : Port) (cur : Cursor) (e : QEntry) : Nat :=
  min k.burst (min x.freeSpace (e.desc.length - cur.off))

/-- The boundary information and MARK of the entries reserved for a burst of `n` words (R108, steps 3 and 4). -/
def slotsOf (d : Desc) (cur : Cursor) (n : Nat) : List Slot :=
  (List.range n).map fun i =>
    let final := cur.rep == d.repeats && cur.off + i == d.length - 1
    { mark := final && d.last, boundary := ⟨d, cur.rep, cur.off + i, final⟩ }

/-- The burst of `n` words finishes the descriptor's last repetition (R107). -/
def finishesLast (d : Desc) (cur : Cursor) (n : Nat) : Bool :=
  decide (d.length ≤ cur.off + n) && decide (d.repeats ≤ cur.rep)

/-- Where the fetch cursor moves at the grant (R107). -/
def moveCursor (queueLen : Nat) (d : Desc) (cur : Cursor) (n : Nat) : Option Cursor :=
  if cur.off + n < d.length then some { cur with off := cur.off + n }
  else if cur.rep < d.repeats then some { cur with rep := cur.rep + 1, off := 0 }
  else if cur.pos + 1 < queueLen then some ⟨cur.pos + 1, 1, 0⟩
  else none

/-- The sequencer's side of a replay grant (R68, R108, R109). -/
def Port.fetchGranted (cur : Cursor) (e : QEntry) (n : Nat) (x : Port) : Port :=
  { x with
    reservation := n
    queue := x.queue.set cur.pos { e with started := true }
    fetch := moveCursor x.queue.length e.desc cur n
    stopBlock := if finishesLast e.desc cur n && e.desc.stop then .waiting cur.pos else x.stopBlock }

/-- A replay port's grant (R68, R108). -/
def grantReplay (c : Candidate) (p : PortId) (s : State) : State :=
  let k := s.pcfg p
  let x := s.port p
  match x.fetched with
  | none => s
  | some (cur, e) =>
    let n := replayCount k x cur e
    begin c
      { kind := .readBurst, who := .port p, addr := k.regionFirst + e.desc.start + cur.off, count := n,
        slots := slotsOf e.desc cur n }
      (s.updPort p (Port.fetchGranted cur e n))

/-- HOST's transaction (R69). -/
def hostFlight : HostWork → Flight
  | .wordWrite b =>
    { kind := .wordWrite, who := .host, addr := b.addr.toNat, count := 1, words := [{ word := b.word, mark := false }] }
  | .fillChunk j pattern =>
    { kind := .writeBurst, who := .host, addr := j.start + j.covered, count := j.chunk,
      words := List.replicate j.chunk { word := pattern, mark := false } }
  | .crcChunk j => { kind := .readBurst, who := .host, addr := j.start + j.covered, count := j.chunk }
  | .wordRead a => { kind := .wordRead, who := .host, addr := a.toNat, count := 1 }

/-- HOST's grant (R69). -/
def grantHost (c : Candidate) (s : State) : State :=
  match hostRequest s with
  | some w => begin c (hostFlight w) s
  | none => s

/-- The grant actions of the winner (R66 to R69). -/
def grant (c : Candidate) (s : State) : State :=
  match c.who with
  | .refresh => begin c { kind := .refresh, who := .refresh } s
  | .host => grantHost c s
  | .port p =>
    match (s.pcfg p).dir with
    | .capture => grantCapture c p s
    | .replay => grantReplay c p s
  | .controller => s

/-- An arbitration point may be held (R62): READY, free, and the sleep test of the instant does not take the
controller to SLEEP. -/
def pointHeld (s : State) : Bool := s.mc.state == .ready && s.mc.flight.isNone && !sleepDue s

/-- An arbitration point falls due: one may be held and, requests standing as they are at the end of the instant,
some gated request exists (R62). -/
def pointDue (s : State) : Bool := pointHeld s && !(candidates (settlePorts s)).isEmpty

/-- An arbitration point, on requests that stand as they are at the end of the instant (R62 to R66). With no gated
request there is no winner and nothing changes. -/
def arbitrate (s : State) : State :=
  if pointHeld s then
    let s1 := release (settlePorts s)
    match winner s1.ma (candidates s1) with
    | some c => grant c s1
    | none => s1
  else s

/-- ARBITRATION_POINT (R62). -/
def execArbitrationPoint (s : State) : Host.Outcome State Fault Refusal := event arbitrate s

end Sys2Proof.Machine
end

