-- ==== Sys2Proof/Machine/PortCommands.lean ====
section
/-! DEFINITION. The commands that take a port (Chapter 9): own checks and effects, after the checks of R8, R20 and
R124. `p` is the latched port. -/

namespace Sys2Proof.Machine

/-- A port right after PORT_OPEN (R125). -/
def openedPort : Port := { state := .idle, xen := true }

/-- PORT_OPEN (R162, R125). -/
def cmdPortOpen (p : PortId) (s : State) : State :=
  finish .ok {} (openFairness p (s.updPort p fun _ => openedPort))

/-- Entry into CLOSING (R126, steps 1 to 4). -/
def Port.enterClosing (x : Port) : Port :=
  { x with
    state := .closing
    overrun := false
    underrun := false
    idleCount := if x.state = .active then x.idleCount else 0 }

/-- The end conditions tested at the PORT_CLOSE write (R126, step 5; R131): the end of the drain, or on a replay
port whose idle-declared flag is set the abandonment. -/
def closeNow (p : PortId) (s : State) : State :=
  if drainEnded s p then closeEnd p s
  else if (s.pcfg p).dir = .replay ∧ (s.port p).idleDeclared = true then abandon p s
  else s

/-- PORT_CLOSE (R163, R126, R136). -/
def cmdPortClose (p : PortId) (s : State) : State :=
  let s1 := if (s.port p).state = .faulted then enterClosed p .close 0 s
    else closeNow p (s.updPort p Port.enterClosing)
  finish .ok { w0 := pack [(0, (s1.port p).state.code)] } s1

/-- PORT_ABORT (R164, R133): it waits for a transaction of the port in flight. -/
def cmdPortAbort (p : PortId) (s : State) : State :=
  if liveFlight s p then s.updSeq fun q => { q with running := some (.portAbort p) }
  else finish .ok {} (abortPort p s)

/-- An IDLE port that receives a descriptor becomes ACTIVE (R99, R93). -/
def Port.activate (x : Port) : Port :=
  if x.state = .idle then { x with state := .active, idleCount := 0 } else x

/-- SEG_POST (R165, R166, R99). -/
def cmdSegPost (p : PortId) (s : State) : State :=
  let a := s.hp.seq.latched.args
  let k := s.pcfg p
  let d := segPostDesc a
  if segFormatOk k.dir a = false then finish .segFormat {} s
  else if k.regionWords < d.start + d.length then finish .segRange {} s
  else if 8 ≤ (s.port p).queue.length then finish .queueFull {} s
  else
    finish .ok { w0 := BitVec.ofNat 16 ((s.port p).queue.length + 1) }
      (s.updPort p fun x => (x.append k.dir d).activate)

/-- The entries a SEG_FLUSH keeps and those it cancels (R122): on a capture port the current descriptor is kept;
on a replay port the entries whose first fetch has been granted. -/
def flushSplit (dir : Dir) (q : List QEntry) : List QEntry × List QEntry :=
  match dir with
  | .capture => (q.take 1, q.drop 1)
  | .replay => (q.filter (·.started), q.filter fun e => !e.started)

/-- The fetch cursor after a SEG_FLUSH: at tail if it stood on a cancelled entry (R122, step 1). -/
def Port.flushedFetch (dir : Dir) (x : Port) : Option Cursor :=
  match dir, x.fetched with
  | .capture, _ => x.fetch
  | .replay, some (c, e) => if e.started then some c else none
  | .replay, none => x.fetch

/-- A port's queue and cursor after a SEG_FLUSH (R122). -/
def Port.flushed (dir : Dir) (x : Port) : Port :=
  Port.idleIfEmpty { x with queue := (flushSplit dir x.queue).1, fetch := x.flushedFetch dir }

/-- SEG_FLUSH (R167, R122). -/
def cmdSegFlush (p : PortId) (s : State) : State :=
  let cancelled := (flushSplit (s.pcfg p).dir (s.port p).queue).2
  finish .ok { w0 := BitVec.ofNat 16 cancelled.length }
    ((cancelAll p .flush cancelled s).updPort p (Port.flushed (s.pcfg p).dir))

/-- QUEUE_STATUS's report (R168, Table 9-3). A CLOSED or FAULTED port reports its state only. -/
def queueReport (dir : Dir) (x : Port) : Words4 :=
  if x.state = .closed ∨ x.state = .faulted then { w0 := pack [(0, x.state.code)] }
  else
    let progress := match x.queue with
      | [] => 0
      | h :: _ => h.progress
    let fetch : Option Byte := match dir with
      | .capture => x.queue.head?.map fun h => h.desc.tag
      | .replay => x.fetched.map fun ce => ce.2.desc.tag
    { w0 := pack [(0, x.state.code), (3, x.queue.length), (7, x.xen.toNat),
        (8, (dir == .replay && x.stopBlock != .clear).toNat), (9, fetch.isSome.toNat)]
      w1 := pack [(0, x.headTag.toNat), (8, match fetch with
        | some t => t.toNat
        | none => 0)]
      w2 := lowWord progress
      w3 := highWord progress }

/-- QUEUE_STATUS (R168). -/
def cmdQueueStatus (p : PortId) (s : State) : State :=
  finish .ok (queueReport (s.pcfg p).dir (s.port p)) s

/-- A mark-log entry as MARK_READ returns it, with the overwrite count before the read (R169). -/
def markReport (m : MarkEntry) (overwrites : Nat) : Words4 :=
  { w0 := pack [(0, m.tag.toNat), (8, overwrites)]
    w1 := lowWord m.index
    w2 := lowWord m.addr
    w3 := pack [(0, m.index / 65536 % 64), (8, m.addr / 65536 % 64)] }

/-- MARK_READ (R169, R138). -/
def cmdMarkRead (p : PortId) (s : State) : State :=
  if (s.pcfg p).dir = .replay then finish .badState {} s
  else match (s.port p).marks with
    | [] => finish .empty {} s
    | m :: rest =>
      finish .ok (markReport m (s.port p).overwrites)
        (s.updPort p fun x => { x with marks := rest, overwrites := 0 })

end Sys2Proof.Machine
end

