-- ==== Sys2Proof/Machine/SystemCommands.lean ====
section
/-! DEFINITION. The commands that take no port (Chapter 9): own checks and effects, after the code check, the port
check and the device-state check (R156). Each ends with the completion step, or leaves the sequencer BUSY. -/

namespace Sys2Proof.Machine

/-- NOP (R157). -/
def cmdNop (s : State) : State :=
  finish .ok { w0 := idVendor, w1 := idPart, w2 := idRev } s

/-! ### The ARM check (R35 to R37) -/

/-- A failed check as ARM reports it: code, item, first and second port, and for LEVEL_CONFLICT the two level
users and the shared level (R37). -/
structure ArmFailure where
  code   : Nat
  item   : Nat := 0
  first  : Nat := 0
  second : Nat := 0
  users  : Nat × Nat × Nat := (0, 0, 0)
deriving DecidableEq, Repr

/-- The first item whose condition holds. -/
def firstOf {α : Type} : List (Bool × α) → Option α
  | [] => none
  | (b, x) :: t => if b then some x else firstOf t

/-- GLOBAL_RANGE (R36). -/
def globalRange (c : Cfg) : Option ArmFailure :=
  firstOf
    ([(c.sizeSelect == 3, { code := 2, item := 1 }),
      (decide (c.tickDiv.toNat < 16), { code := 2, item := 2 }),
      (bits c.refresh 0 8 == 0, { code := 2, item := 3 }),
      (decide (c.urgentLimit < 1) || decide (6 < c.urgentLimit), { code := 2, item := 4 }),
      (decide (15 < c.hostLevel), { code := 2, item := 5 }),
      (decide (15 < c.refreshNormalLevel), { code := 2, item := 6 }),
      (decide (15 < c.refreshUrgentLevel), { code := 2, item := 7 })] ++
    allPorts.flatMap fun p =>
      let k := c.ports.get p
      [(k.present && decide (15 < k.normalLevel), { code := 2, item := 8, first := portIndex p }),
       (k.present && decide (15 < k.urgentLevel), { code := 2, item := 9, first := portIndex p })])

/-- FLOW is illegal for the port's direction (R30). -/
def PortCfg.flowIllegal (k : PortCfg) : Bool :=
  match k.dir with
  | .capture => k.flowCode == 3
  | .replay => k.flowCode == 2 || k.flowCode == 3

/-- PORT_RANGE, WATERMARK_ORDER and REGION_OUTSIDE for each PRESENT port in port order (R35). -/
def portGroup (c : Cfg) : Option ArmFailure :=
  firstOf (allPorts.flatMap fun p =>
    let k := c.ports.get p
    let n := portIndex p
    [(k.present && k.flowIllegal, { code := 3, item := 1, first := n }),
     (k.present && decide (3 < k.burstCode), { code := 3, item := 2, first := n }),
     (k.present && (k.sizeUnits == 0 || decide (4096 < k.sizeUnits)), { code := 3, item := 3, first := n }),
     (k.present && !(decide (1 ≤ k.normalWm) && decide (k.normalWm < k.urgentWm) && decide (k.urgentWm ≤ 64)),
       { code := 4, first := n }),
     (k.present && decide (c.memorySize < (k.baseUnits + k.sizeUnits) * 1024), { code := 5, first := n })])

/-- The pairs of ports in the order of R37. -/
def portPairs : List (PortId × PortId) :=
  [(.p0, .p1), (.p0, .p2), (.p0, .p3), (.p1, .p2), (.p1, .p3), (.p2, .p3)]

/-- Two regions share at least one word. -/
def regionsMeet (a b : PortCfg) : Bool :=
  decide (a.regionFirst < b.regionEnd) && decide (b.regionFirst < a.regionEnd)

/-- REGION_OVERLAP (R35, R37). -/
def regionOverlap (c : Cfg) : Option ArmFailure :=
  firstOf (portPairs.map fun (p, q) =>
    let a := c.ports.get p
    let b := c.ports.get q
    (a.present && b.present && regionsMeet a b, { code := 6, first := portIndex p, second := portIndex q }))

/-- The levels in use, with their user numbers (R37). -/
def levelUsers (c : Cfg) : List (Nat × Nat) :=
  [(0, c.refreshNormalLevel), (1, c.refreshUrgentLevel), (2, c.hostLevel)] ++
    allPorts.flatMap fun p =>
      let k := c.ports.get p
      if k.present then [(3 + 2 * portIndex p, k.normalLevel), (4 + 2 * portIndex p, k.urgentLevel)] else []

/-- The first pair of users, in order of the lower and then of the higher, with equal levels (R37). -/
def levelConflict : List (Nat × Nat) → Option ArmFailure
  | [] => none
  | (u, l) :: rest =>
    match rest.find? (fun e => e.2 == l) with
    | some (v, _) => some { code := 7, users := (u, v, l) }
    | none => levelConflict rest

/-- The ARM check: the first failure, if any (R35). -/
def armCheck (s : State) : Option ArmFailure :=
  let c := s.sc.cfg
  if s.mc.state ≠ .ready then some { code := 1 }
  else match globalRange c with
    | some f => some f
    | none => match portGroup c with
      | some f => some f
      | none => match regionOverlap c with
        | some f => some f
        | none => levelConflict (levelUsers c)

/-- The report of a failing ARM in RES0 and RES1 (R37). -/
def ArmFailure.report (f : ArmFailure) : Words4 :=
  { w0 := pack [(0, f.code), (4, f.item), (8, f.first), (10, f.second)]
    w1 := pack [(0, f.users.1), (4, f.users.2.1), (8, f.users.2.2)] }

/-- Every XEN bit becomes 0. -/
def clearXen (s : State) : State :=
  { s with ports := s.ports.map fun _ x => { x with xen := false } }

/-- ARM (R158, R38). -/
def cmdArm (s : State) : State :=
  match armCheck s with
  | some f => finish .checkFailed f.report s
  | none => finish .ok {} (openAll (clearXen (s.updSc fun c => { c with device := .armed })))

/-- DISARM (R159, R39). -/
def cmdDisarm (s : State) : State :=
  if allClosed s then finish .ok {} (openAll (s.updSc fun c => { c with device := .setup }))
  else finish .badState {} s

/-- DOZE (R160): accepted, it sets the sleep request and stays BUSY until entry into SLEEP. -/
def cmdDoze (s : State) : State :=
  if allClosed s && s.hp.win.wbuf.isNone then
    (s.updSeq fun q => { q with running := some .doze }).updMc fun m => { m with sleepRequest := true }
  else finish .badState {} s

/-- WAKE (R161, R57). -/
def cmdWake (s : State) : State :=
  finish .ok {}
    ((s.updMc fun m => { m with state := .ready, owed := 0, intervalCount := 0 }).updSc
      fun c => { c with device := .armed })

/-- A range shares a word with the region of a port whose DIR is CAPTURE and whose state is not CLOSED
(R170, check 2). -/
def protectedRange (s : State) (start count : Nat) : Bool :=
  allPorts.any fun p =>
    (s.pcfg p).dir == .capture && (s.port p).state != .closed &&
      decide (start < (s.pcfg p).regionEnd) && decide ((s.pcfg p).regionFirst < start + count)

/-- MEM_FILL (R170, R171): accepted, the latch is discarded (R16) and the command stays BUSY. -/
def cmdMemFill (s : State) : State :=
  let a := s.hp.seq.latched.args
  let job : Job := { start := memArgStart a, count := memArgCount a }
  if memArgOk s.sc.cfg.memorySize a = false then finish .badArg {} s
  else if protectedRange s job.start job.count then finish .protectedRange {} s
  else discardLatch (s.updSeq fun q => { q with running := some (.memFill job a.a0) })

/-- REGION_CRC (R170, R172): accepted, the latch is discarded (R16) and the command stays BUSY. -/
def cmdRegionCrc (s : State) : State :=
  let a := s.hp.seq.latched.args
  let job : Job := { start := memArgStart a, count := memArgCount a }
  if memArgOk s.sc.cfg.memorySize a = false then finish .badArg {} s
  else discardLatch (s.updSeq fun q => { q with running := some (.regionCrc job 0xFFFF 0) })

end Sys2Proof.Machine
end

