-- ==== Sys2Proof/Machine/Window.lean ====
section
/-! DEFINITION. The memory window (section 1.5): what a write or read of its registers does, less the guards that
every host access shares (Machine/HostPort.lean). -/

namespace Sys2Proof.Machine

/-- The outcome of the three conditions of a prefetch attempt, in order (R12): the error bit of the first that
fails, or none. -/
def prefetchRefusal (s : State) : Option (BitVec 7) :=
  if s.mc.state ≠ .ready then some winNotReady
  else if memCommandRunning s then some winConflict
  else if s.sc.cfg.memorySize ≤ s.hp.win.addr.toNat then some winRange
  else none

/-- Start the prefetch: the latch becomes PENDING. -/
def startPrefetch (s : State) : State := s.updWin fun w => { w with latch := .pending }

/-- WIN_ADDR_LO write (R12). -/
def writeWinAddrLo (w : Word) (s : State) : State :=
  discardLatch (s.updWin fun x => { x with addr := x.addr.extractLsb' 16 6 ++ w })

/-- WIN_ADDR_HI write (R12). -/
def writeWinAddrHi (w : Word) (s : State) : State :=
  let s1 := discardLatch (s.updWin fun x => { x with addr := w.extractLsb' 0 6 ++ x.addr.extractLsb' 0 16 })
  match prefetchRefusal s1 with
  | some b => setWinError b s1
  | none => startPrefetch s1

/-- The word a WIN_DATA read returns (R14). -/
def winDataValue (s : State) : Word :=
  match s.hp.win.latch with
  | .ready w => w
  | .empty => 0xFFFF
  | .pending => 0xFFFF

/-- WIN_DATA read: its effect (R14). A follow-on prefetch that cannot start sets no error bit. -/
def readWinData (s : State) : State :=
  match s.hp.win.latch with
  | .ready _ =>
    let s1 := s.updWin fun x => { x with addr := x.addr + 1, latch := .empty }
    match prefetchRefusal s1 with
    | some _ => s1
    | none => startPrefetch s1
  | .empty => setWinError winUnderflow s
  | .pending => setWinError winUnderflow s

/-- An address lies in the region of a port whose DIR is CAPTURE and whose state is not CLOSED (R15, test 4). -/
def protectedAddr (s : State) (addr : Nat) : Bool :=
  allPorts.any fun p =>
    (s.pcfg p).dir == .capture && (s.port p).state != .closed &&
      decide ((s.pcfg p).regionFirst ≤ addr) && decide (addr < (s.pcfg p).regionEnd)

/-- The five tests of a WIN_DATA write, in order (R15): the error bit of the first that fails, or none. -/
def winWriteRefusal (s : State) : Option (BitVec 7) :=
  if s.mc.state ≠ .ready then some winNotReady
  else if memCommandRunning s then some winConflict
  else if s.sc.cfg.memorySize ≤ s.hp.win.addr.toNat then some winRange
  else if protectedAddr s s.hp.win.addr.toNat then some winProtect
  else if s.hp.win.wbuf.isSome then some winOverflow
  else none

/-- WIN_DATA write (R15). -/
def writeWinData (w : Word) (s : State) : State :=
  match winWriteRefusal s with
  | some b => setWinError b s
  | none =>
    discardLatch (s.updWin fun x => { x with wbuf := some ⟨w, x.addr⟩, addr := x.addr + 1 })

/-- WIN_STATUS write: W1C on bits 14:8 (R16, R192). -/
def writeWinStatus (w : Word) (s : State) : State :=
  s.updWin fun x => { x with errors := x.errors &&& ~~~(w.extractLsb' 8 7) }

end Sys2Proof.Machine
end

