-- ==== Sys2Proof/Machine/HostPort.lean ====
section
/-! DEFINITION. Host register accesses (Chapter 1): the command protocol and the check order of Table 9-1, the write
and the read of each of the 64 register positions, and the guards that every access shares (R1, R177, R179). -/

namespace Sys2Proof.Machine

/-! ### The command protocol -/

/-- The device-state check (R20): the refusing result, or none when admitted. -/
def deviceCheck (c : Cmd) (d : Device) (m : McState) : Option Result :=
  match c with
  | .nop | .queueStatus | .markRead => none
  | .arm => match d with
    | .setup => none
    | .armed | .doze => some .badState
  | .disarm | .doze | .portClose | .portAbort | .segFlush => match d with
    | .armed => none
    | .setup | .doze => some .badState
  | .wake => match d with
    | .doze => none
    | .setup | .armed => some .badState
  | .portOpen | .segPost => match d with
    | .setup => some .badState
    | .armed => none
    | .doze => some .notAwake
  | .memFill | .regionCrc => match d with
    | .setup => if m = .ready then none else some .notAwake
    | .armed => none
    | .doze => some .notAwake

/-- The port-state check of the port commands (R124): true when the port's state admits the command. -/
def portAdmits (c : Cmd) (x : PState) : Bool :=
  match c with
  | .portOpen => x == .closed
  | .portClose => x == .idle || x == .active || x == .faulted
  | .portAbort => x != .closed
  | .segPost | .segFlush => x == .idle || x == .active
  | .queueStatus | .markRead => true
  | .nop | .arm | .disarm | .doze | .wake | .memFill | .regionCrc => true

/-- A command's own checks and effect (Chapter 9). -/
def cmdEffect (c : Cmd) (p : PortId) (s : State) : State :=
  match c with
  | .nop => cmdNop s
  | .arm => cmdArm s
  | .disarm => cmdDisarm s
  | .doze => cmdDoze s
  | .wake => cmdWake s
  | .portOpen => cmdPortOpen p s
  | .portClose => cmdPortClose p s
  | .portAbort => cmdPortAbort p s
  | .segPost => cmdSegPost p s
  | .segFlush => cmdSegFlush p s
  | .queueStatus => cmdQueueStatus p s
  | .markRead => cmdMarkRead p s
  | .memFill => cmdMemFill s
  | .regionCrc => cmdRegionCrc s

/-- The checks shared by every command, in the order of R156; the first that fails gives the result. -/
def commonCheck (s : State) (c : Cmd) (p : PortId) : Option Result :=
  if c.takesPort && !(s.pcfg p).present then some .badPort
  else match deviceCheck c s.sc.device s.mc.state with
    | some r => some r
    | none => if c.takesPort && !portAdmits c (s.port p).state then some .badState else none

/-- Run the latched command (R8, R156). -/
def runLatched (s : State) : State :=
  let l := s.hp.seq.latched
  match cmdOf l.code with
  | none => finish .badCode {} s
  | some c =>
    match commonCheck s c l.port with
    | some r => finish r {} s
    | none => cmdEffect c l.port s

/-- Start a command: clear DONE, OVERLAP, RESULT and RES, latch code, port and arguments (R7, steps 1 to 4). -/
def latchCommand (w : Word) (s : State) : State :=
  s.updSeq fun q => { q with
    done := false
    overlap := false
    result := .ok
    res := {}
    latched := ⟨w.extractLsb' 0 8, portOf (w.extractLsb' 8 2), q.args⟩ }

/-- CMD write (R7, R9). -/
def writeCmd (w : Word) (s : State) : State :=
  if s.hp.seq.running.isSome then s.updSeq fun q => { q with overlap := true }
  else runLatched (latchCommand w s)

/-! ### Control and event registers -/

/-- DEV_CTRL write (R3). -/
def writeDevCtrl (w : Word) (s : State) : State :=
  if flag w 0 then requestSoftReset s
  else if flag w 1 then requestCancel s
  else s

/-- XEN_SET write (R4). -/
def writeXenSet (w : Word) (s : State) : State :=
  { s with ports := s.ports.map fun p x =>
      if flag w (portIndex p) && x.state.working then { x with xen := true } else x }

/-- XEN_CLR write (R4). -/
def writeXenClr (w : Word) (s : State) : State :=
  { s with ports := s.ports.map fun p x => if flag w (portIndex p) then { x with xen := false } else x }

/-- EVQ_THRESH as stored: clamped to 1 to 32 (R5). -/
def clampThresh (n : Nat) : Nat := if n = 0 then 1 else if 32 < n then 32 else n

/-- EVQ_THRESH write (R5). -/
def writeEvqThresh (w : Word) (s : State) : State :=
  s.updEu fun e => { e with thresh := clampThresh (bits w 0 6) }

/-- SUMMARY read: its effect clears the bits it returned (R151). -/
def readSummary (s : State) : State := s.updEu fun e => { e with summary := 0 }

/-- EVQ_POP read: its effect (R148, R149). -/
def popEvent (s : State) : State :=
  match s.eu.queue with
  | [] => s
  | r :: rest =>
    s.updEu fun e =>
      let e1 := { e with queue := rest, evw := r.words }
      if e.lost then
        { storeRecord ⟨.evqLost, .sys, 0, .noDetail, e.lostCount⟩ s.tb.tickCount e1 with
          lostCount := 0, lost := false }
      else e1

/-! ### Configuration gate -/

/-- The fields of a port's configuration word `i` take the bits written (R23, Table 2-1). -/
def PortCfg.store (k : PortCfg) (i : Nat) (w : Word) : PortCfg :=
  match i with
  | 0 => { k with pcfg := w &&& 0x00FF }
  | 1 => { k with regionBase := w &&& 0x0FFF }
  | 2 => { k with regionSize := w &&& 0x1FFF }
  | 3 => { k with wm := w &&& 0x7F3F }
  | 4 => { k with levels := w &&& 0x1F1F }
  | 5 => { k with linkIdle := w &&& 0x00FF }
  | 6 => { k with fillWord := w }
  | _ => k

/-- The configuration space after an accepted write to index `i` (R18, R23): an index that names no word, and
MEM_CTRL, store nothing. -/
def Cfg.store (c : Cfg) (i : Nat) (w : Word) : Cfg :=
  match i with
  | 0 => { c with memGeom := w &&& 0x01F3 }
  | 1 => c
  | 2 => { c with refresh := w &&& 0x0FFF }
  | 3 => { c with tickDiv := w }
  | 4 => { c with arbCtrl := w }
  | i =>
    if i < 8 then c
    else if i < 40 then
      let p := portOf (BitVec.ofNat 2 ((i - 8) / 8))
      { c with ports := c.ports.set p ((c.ports.get p).store ((i - 8) % 8) w) }
    else c

/-- A CFG_DATA write is refused (R18). -/
def cfgWriteRefused (s : State) : Bool :=
  s.sc.device != .setup || (s.hp.cfgIndex == 0 && s.mc.state == .init)

/-- What an accepted write also does at once (R18): START, the divider's restart, fairness disabled. -/
def cfgWriteActs (w : Word) (s : State) : State :=
  match s.hp.cfgIndex.toNat with
  | 1 => if flag w 0 then startInit s else s
  | 3 => s.updTb fun t => { t with divider := 0 }
  | 4 => if flag w 15 then s else openAll s
  | _ => s

/-- CFG_DATA write (R18, R23). -/
def writeCfgData (w : Word) (s : State) : State :=
  if cfgWriteRefused s then s.updHp fun h => { h with cfgLocked := true }
  else
    cfgWriteActs w
      ((s.updHp fun h => { h with cfgLocked := false }).updSc
        fun c => { c with cfg := c.cfg.store s.hp.cfgIndex.toNat w })

/-! ### The register window -/

/-- A write to a register position, R1's guards apart. Positions that are RO, unlisted, or read with an effect
ignore it (R1, R5). -/
def writeRegister (off : BitVec 6) (w : Word) (s : State) : State :=
  match off.toNat with
  | 0x04 => writeDevCtrl w s
  | 0x05 => writeCmd w s
  | 0x06 => s.updSeq fun q => { q with args := q.args.set 0 w }
  | 0x07 => s.updSeq fun q => { q with args := q.args.set 1 w }
  | 0x08 => s.updSeq fun q => { q with args := q.args.set 2 w }
  | 0x09 => s.updSeq fun q => { q with args := q.args.set 3 w }
  | 0x0A => s.updSeq fun q => { q with args := q.args.set 4 w }
  | 0x0B => s.updSeq fun q => { q with args := q.args.set 5 w }
  | 0x0C => s.updSeq fun q => { q with args := q.args.set 6 w }
  | 0x0D => s.updSeq fun q => { q with args := q.args.set 7 w }
  | 0x14 => writeXenSet w s
  | 0x15 => writeXenClr w s
  | 0x17 => s.updEu fun e => { e with intEn := w.extractLsb' 0 9 }
  | 0x1E => writeEvqThresh w s
  | 0x1F => s.updEu fun e => { e with age := bits w 0 8 }
  | 0x20 => writeWinAddrLo w s
  | 0x21 => writeWinAddrHi w s
  | 0x22 => writeWinData w s
  | 0x23 => writeWinStatus w s
  | 0x24 => s.updHp fun h => { h with cfgIndex := w.extractLsb' 0 6 }
  | 0x25 => writeCfgData w s
  | _ => s

/-- The word a host read of a register position returns (section 1.2, R1, R2, R5, R14, R17). XEN_SET and XEN_CLR
return a free value in bits 3:0: the manual states none (log entry 14). -/
def readValue (s : State) (off : BitVec 6) : Word :=
  match off.toNat with
  | 0x00 => idVendor
  | 0x01 => idPart
  | 0x02 => idRev
  | 0x03 => devStatus s
  | 0x06 => s.hp.seq.args.a0
  | 0x07 => s.hp.seq.args.a1
  | 0x08 => s.hp.seq.args.a2
  | 0x09 => s.hp.seq.args.a3
  | 0x0A => s.hp.seq.args.a4
  | 0x0B => s.hp.seq.args.a5
  | 0x0C => s.hp.seq.args.a6
  | 0x0D => s.hp.seq.args.a7
  | 0x0E => cmdStatus s.hp.seq
  | 0x0F => s.hp.seq.res.w0
  | 0x10 => s.hp.seq.res.w1
  | 0x11 => s.hp.seq.res.w2
  | 0x12 => s.hp.seq.res.w3
  | 0x13 => xenWord s.ports
  | 0x14 => Config.unstatedRead s.freeIndex &&& 0x000F
  | 0x15 => Config.unstatedRead s.freeIndex &&& 0x000F
  | 0x16 => s.eu.summary.setWidth 16
  | 0x17 => s.eu.intEn.setWidth 16
  | 0x18 => evqStatus s.eu
  | 0x19 => BitVec.ofNat 16 s.eu.queue.length
  | 0x1A => s.eu.evw.w0
  | 0x1B => s.eu.evw.w1
  | 0x1C => s.eu.evw.w2
  | 0x1D => s.eu.evw.w3
  | 0x1E => BitVec.ofNat 16 s.eu.thresh
  | 0x1F => BitVec.ofNat 16 s.eu.age
  | 0x20 => s.hp.win.addr.extractLsb' 0 16
  | 0x21 => (s.hp.win.addr.extractLsb' 16 6).setWidth 16
  | 0x22 => winDataValue s
  | 0x23 => winStatus s.hp.win
  | 0x24 => s.hp.cfgIndex.setWidth 16
  | 0x25 => cfgWord s
  | 0x26 => s.tb.tickCount
  | 0x28 => pstat s.ports.p0
  | 0x29 => pstat s.ports.p1
  | 0x2A => pstat s.ports.p2
  | 0x2B => pstat s.ports.p3
  | 0x2C => BitVec.ofNat 16 s.ports.p0.drop
  | 0x2D => BitVec.ofNat 16 s.ports.p1.drop
  | 0x2E => BitVec.ofNat 16 s.ports.p2.drop
  | 0x2F => BitVec.ofNat 16 s.ports.p3.drop
  | 0x30 => BitVec.ofNat 16 s.ports.p0.fill
  | 0x31 => BitVec.ofNat 16 s.ports.p1.fill
  | 0x32 => BitVec.ofNat 16 s.ports.p2.fill
  | 0x33 => BitVec.ofNat 16 s.ports.p3.fill
  | _ => 0

/-- What a read of a register position changes (R2, R5, R14): only SUMMARY, EVQ_POP and WIN_DATA have an effect; a
read that returns a free value uses one up. -/
def readEffect (off : BitVec 6) (s : State) : State :=
  match off.toNat with
  | 0x14 => { s with freeIndex := s.freeIndex + 1 }
  | 0x15 => { s with freeIndex := s.freeIndex + 1 }
  | 0x16 => readSummary s
  | 0x19 => popEvent s
  | 0x22 => readWinData s
  | _ => s

/-- The part drives a word on D15 to D0. -/
def driveBus (w : Word) (s : State) : State := s.updHp fun h => { h with dataBus := w }

/-- A host write as an event: ignored in RESET_PENDING except to DEV_CTRL (R1, R179), and ignored by a part held in
reset (R177). -/
def hostWrite (off : BitVec 6) (w : Word) : State → Host.Outcome State Fault Refusal :=
  event fun s => if s.sc.resetPending && off != offDevCtrl then s else writeRegister off w s

/-- A host read as an event: the value is driven on D15 to D0 and the effect follows. A part held in reset returns
0000H and does nothing else (R177). -/
def hostRead (off : BitVec 6) (s : State) : Host.Outcome State Fault Refusal :=
  if s.held.isSome then .next (driveBus 0 s)
  else event (fun s => driveBus (readValue s off) (readEffect off s)) s

/-- A host access with CS_N asserted, by its strobes (R1): with both RD_N and WR_N asserted it has no effect and
drives 0000H; with neither it is no access. -/
def hostAccess (rd wr : Bool) (off : BitVec 6) (w : Word) (s : State) : Host.Outcome State Fault Refusal :=
  match rd, wr with
  | true, true => if s.held.isSome then .next (driveBus 0 s) else event (driveBus 0) s
  | true, false => hostRead off s
  | false, true => hostWrite off w s
  | false, false => event id s

end Sys2Proof.Machine
end

