-- ==== Sys2Proof/Machine/Commands.lean ====
section
/-! DEFINITION. The rows that are CMD writes (Chapter 9). Each writes its code to CMD; whether it starts the command,
only sets OVERLAP or is ignored is settled by the shared guards and by R7 to R9 (log entry 11). The effect of each
command stands in Machine/SystemCommands.lean and Machine/PortCommands.lean. -/

namespace Sys2Proof.Machine

/-- NOP (R157): effect `cmdNop`. -/
def execNop (high : Byte) (s : State) : Host.Outcome State Fault Refusal := hostWrite offCmd (cmdWord high 0x00) s

/-- ARM (R158): effect `cmdArm`. -/
def execArm (high : Byte) (s : State) : Host.Outcome State Fault Refusal := hostWrite offCmd (cmdWord high 0x10) s

/-- DISARM (R159): effect `cmdDisarm`. -/
def execDisarm (high : Byte) (s : State) : Host.Outcome State Fault Refusal := hostWrite offCmd (cmdWord high 0x11) s

/-- DOZE (R160): effect `cmdDoze`. -/
def execDoze (high : Byte) (s : State) : Host.Outcome State Fault Refusal := hostWrite offCmd (cmdWord high 0x12) s

/-- WAKE (R161): effect `cmdWake`. -/
def execWake (high : Byte) (s : State) : Host.Outcome State Fault Refusal := hostWrite offCmd (cmdWord high 0x13) s

/-- PORT_OPEN (R162): effect `cmdPortOpen`. -/
def execPortOpen (high : Byte) (s : State) : Host.Outcome State Fault Refusal := hostWrite offCmd (cmdWord high 0x20) s

/-- PORT_CLOSE (R163): effect `cmdPortClose`. -/
def execPortClose (high : Byte) (s : State) : Host.Outcome State Fault Refusal :=
  hostWrite offCmd (cmdWord high 0x21) s

/-- PORT_ABORT (R164): effect `cmdPortAbort`. -/
def execPortAbort (high : Byte) (s : State) : Host.Outcome State Fault Refusal :=
  hostWrite offCmd (cmdWord high 0x22) s

/-- SEG_POST (R166): effect `cmdSegPost`. -/
def execSegPost (high : Byte) (s : State) : Host.Outcome State Fault Refusal := hostWrite offCmd (cmdWord high 0x30) s

/-- SEG_FLUSH (R167): effect `cmdSegFlush`. -/
def execSegFlush (high : Byte) (s : State) : Host.Outcome State Fault Refusal := hostWrite offCmd (cmdWord high 0x31) s

/-- QUEUE_STATUS (R168): effect `cmdQueueStatus`. -/
def execQueueStatus (high : Byte) (s : State) : Host.Outcome State Fault Refusal :=
  hostWrite offCmd (cmdWord high 0x32) s

/-- MARK_READ (R169): effect `cmdMarkRead`. -/
def execMarkRead (high : Byte) (s : State) : Host.Outcome State Fault Refusal := hostWrite offCmd (cmdWord high 0x33) s

/-- MEM_FILL (R170, R171): effect `cmdMemFill`. -/
def execMemFill (high : Byte) (s : State) : Host.Outcome State Fault Refusal := hostWrite offCmd (cmdWord high 0x40) s

/-- REGION_CRC (R170, R172): effect `cmdRegionCrc`. -/
def execRegionCrc (high : Byte) (s : State) : Host.Outcome State Fault Refusal :=
  hostWrite offCmd (cmdWord high 0x41) s

/-- UNDEFINED_COMMAND (R156): the word's code is absent from Table 9-1, so the code check ends it (R8). -/
def execUndefinedCommand (w : Word) (s : State) : Host.Outcome State Fault Refusal := hostWrite offCmd w s

/-- OVERLAP (R9): the write finds the sequencer BUSY and only sets OVERLAP. -/
def execOverlap (w : Word) (s : State) : Host.Outcome State Fault Refusal := hostWrite offCmd w s

end Sys2Proof.Machine
end

