-- ==== Sys2Proof/Machine/Links.lean ====
section
/-! DEFINITION. Link events (Chapter 5): beats and held offers, and what an emission hands to the sequencer
(R112, R113). -/

namespace Sys2Proof.Machine

/-- Held offer (R76, R82, R88): on a STALL capture link whose FIFO is full, or a HOLD replay link whose FIFO is
empty, it starts an episode; otherwise it has no effect. -/
def heldOffer (p : PortId) (s : State) : State :=
  let k := s.pcfg p
  let x := s.port p
  match k.dir with
  | .capture =>
    if x.state.working && k.flow == .stall && decide (64 ≤ x.fifo.length) then startOverrun p s else s
  | .replay =>
    if x.state == .active && k.flow == .hold && x.fifo.isEmpty then startUnderrun p s else s

/-- An accepted beat (R80). -/
def Port.accept (w : Word) (mark : Bool) (x : Port) : Port :=
  Port.beatSeen { x with fifo := x.fifo ++ [{ word := w, mark := mark }], overrun := false }

/-- A beat discarded under DROP (R81). -/
def dropBeat (p : PortId) (s : State) : State :=
  (startOverrun p (s.updPort p fun x => { x with drop := saturate 65535 x.drop })).updPort p Port.beatSeen

/-- A beat on a capture link (R80, R81, R83). With READY low no beat crosses and the partner's VALID is a held
offer (R76; log entry 5). -/
def captureBeat (p : PortId) (w : Word) (mark : Bool) (s : State) : State :=
  let k := s.pcfg p
  let x := s.port p
  if k.dir ≠ .capture then s
  else if readyPin k x = false then heldOffer p s
  else if x.fifo.length < 64 then s.updPort p (Port.accept w mark)
  else if k.flow = .drop then dropBeat p s
  else fault p .overrun s

/-- The head's progress rises by `n`. -/
def Port.advance (n : Nat) (x : Port) : Port :=
  { x with queue := match x.queue with
    | [] => []
    | h :: t => { h with progress := h.progress + n } :: t }

/-- The GUARD of a replay descriptor: the word is the first repetition's word at segment index guard (R112). -/
def guardHit (h : QEntry) (b : Boundary) : Bool := h.desc.guard == some b.index && b.rep == 1

/-- The sequencer's part of an emission, in the order of R113: progress, guard, terminal and what follows it. -/
def emitSteps (p : PortId) (e : FifoWord) (s : State) : State :=
  match (s.port p).queue, e.boundary with
  | h :: _, some b =>
    let s1 := s.updPort p (Port.advance 1)
    let s2 := if guardHit h b then postPort p .guard h.desc.tag .noDetail b.index s1 else s1
    if b.final then doneHead p .noDetail s2 else s2
  | _, _ => s

/-- An emission (R86): the oldest entry leaves, the sequencer's steps run, an underrun episode ends, the idle count
restarts, and a running close tests its end (R129). -/
def emit (p : PortId) (e : FifoWord) (s : State) : State :=
  closeTest p
    ((emitSteps p e (s.updPort p fun x => { x with fifo := x.fifo.tail })).updPort p
      fun x => Port.beatSeen { x with underrun := false })

/-- A filler (R87). -/
def filler (p : PortId) (s : State) : State :=
  (startUnderrun p (s.updPort p fun x => { x with fill := saturate 65535 x.fill })).updPort p Port.beatSeen

/-- A beat on a replay link (R86, R87). With VALID low no beat crosses and the partner's READY is a held offer
(R76; log entry 5). The word emitted is the one the data lines carried before the event (R85). -/
def replayBeat (p : PortId) (s : State) : State :=
  let k := s.pcfg p
  let x := s.port p
  if k.dir ≠ .replay then s
  else if (replayPins k x).valid = false then heldOffer p s
  else match x.fifo with
    | e :: _ => emit p e s
    | [] => filler p s

/-- CAPTURE_BEAT (R80). -/
def execCaptureBeat (p : PortId) (w : Word) (mark : Bool) (s : State) : Host.Outcome State Fault Refusal :=
  event (captureBeat p w mark) s

/-- REPLAY_BEAT (R86). -/
def execReplayBeat (p : PortId) (s : State) : Host.Outcome State Fault Refusal := event (replayBeat p) s

/-- HELD_OFFER (R76). -/
def execHeldOffer (p : PortId) (s : State) : Host.Outcome State Fault Refusal := event (heldOffer p) s

end Sys2Proof.Machine
end

