-- ==== Sys2Proof/Machine/Completions.lean ====
section
/-! DEFINITION. Transaction completions (R49): the controller's step, the requester's processing, then what the rules
place at the end of a completion: a waiting abort, the fairness update, a deferred soft reset. -/

namespace Sys2Proof.Machine

/-! ### What every completion of a granted transaction shares -/

/-- The controller's step (R49, step 1): READY becomes free; in INIT PRECHARGE_ALL is issued (R44). -/
def endFlight (s : State) : State :=
  let s1 := s.updMc fun m => { m with flight := none }
  if s1.mc.init = .awaiting then issuePrecharge s1 else s1

/-- Another subject requester has a gated request (R70). -/
def otherGated (s : State) (r : Requester) : Bool :=
  (candidates s).any fun c => c.who.subject && c.who != r

/-- The completing requester becomes HELD. -/
def hold (r : Requester) (s : State) : State :=
  match r with
  | .refresh => s
  | .host => s.updMa fun a => { a with host := .held }
  | .port p => s.updMa fun a => { a with ports := a.ports.set p .held }
  | .controller => s

/-- The completing requester is a port that is CLOSED. -/
def closedRequester (s : State) : Requester → Bool
  | .refresh => false
  | .host => false
  | .port p => (s.port p).state == .closed
  | .controller => false

/-- The fairness update (R70, R71), on requests evaluated again. -/
def fairnessUpdate (s : State) : State :=
  match s.ma.grant with
  | some g =>
    if g.cls == .normal && g.who.subject && s.sc.cfg.fairness && otherGated s g.who && !closedRequester s g.who then
      hold g.who s
    else s
  | none => s

/-- A PORT_ABORT waits for this transaction (R133). -/
def abortAwaits (s : State) (who : Requester) : Option PortId :=
  match who with
  | .port p => if abortWaits s p then some p else none
  | .refresh => none
  | .host => none
  | .controller => none

/-- The fairness update as the last step of a completion's processing, after which the grant record is emptied
(R70). -/
def closeGrant (s : State) : State :=
  (fairnessUpdate (settlePorts s)).updMa fun a => { a with grant := none }

/-- A deferred soft reset is applied as the last step of the completion event (R178). -/
def deferredReset (s : State) : State := if s.sc.resetPending then softReset s else s

/-- The end of a completion (R70, R133, R178, R186): a waiting abort executes, the fairness update is made, the
abort's command completes, a deferred soft reset is applied. -/
def afterCompletion (who : Requester) (s : State) : State :=
  match abortAwaits s who with
  | some p => deferredReset (finish .ok {} (closeGrant (abortPort p s)))
  | none => deferredReset (closeGrant s)

/-- Completion of the granted transaction in flight, if it is the row's kind and requester; otherwise no such
completion can occur and nothing changes (log entry 5). -/
def complete (row : Flight → Bool) (handle : Flight → State → State) (s : State) : State :=
  match s.mc.flight with
  | some f => if row f then afterCompletion f.who (handle f (endFlight s)) else s
  | none => s

/-! ### Capture ports (R103 to R106) -/

/-- Append a mark-log entry, discarding the oldest of a full log (R137). -/
def Port.logMark (m : MarkEntry) (x : Port) : Port :=
  if x.marks.length < 16 then { x with marks := x.marks ++ [m] }
  else { x with marks := x.marks.tail ++ [m], overwrites := saturate 255 x.overwrites }

/-- One mark-log entry for each word that carried MARK, in address order (R103). -/
def Port.logMarks (tag : Byte) (index addr : Nat) : List FifoWord → Port → Port
  | [], x => x
  | w :: ws, x =>
    Port.logMarks tag (index + 1) (addr + 1) ws (if w.mark then x.logMark ⟨tag, index, addr⟩ else x)

/-- A capture GUARD is due: this burst takes progress from at most guard to more than guard (R104). -/
def guardPassed (h : QEntry) (n : Nat) : Option Nat :=
  match h.desc.guard with
  | some g => if h.progress ≤ g ∧ g < h.progress + n then some g else none
  | none => none

/-- The burst's last word ends a SPLIT descriptor (R105). -/
def splitEnd (d : Desc) (words : List FifoWord) : Bool :=
  d.last && (match words.getLast? with
    | some w => w.mark
    | none => false)

/-- The capture steps of a completion (R106), then the end test of a running close (R127). -/
def captureSteps (p : PortId) (f : Flight) (s : State) : State :=
  match (s.port p).queue with
  | [] => closeTest p s
  | h :: _ =>
    let s1 := s.updPort p fun x =>
      (x.advance f.count).logMarks h.desc.tag h.progress f.addr f.words
    let s2 := match guardPassed h f.count with
      | some g => postPort p .guard h.desc.tag .noDetail g s1
      | none => s1
    let s3 := if splitEnd h.desc f.words then doneHead p .markEnd s2
      else if h.progress + f.count = h.desc.length then doneHead p .noDetail s2
      else s2
    closeTest p s3

/-- Completion of a capture port's WRITE_BURST: its words are in memory; an orphan does nothing more (R114). -/
def captureCompletion (f : Flight) (s : State) : State :=
  match f.who with
  | .port p =>
    let s1 := writeMemory f.addr (f.words.map (·.word)) s
    if f.orphan then s1 else captureSteps p f s1
  | .refresh => s
  | .host => s
  | .controller => s

/-! ### Replay ports (R110, R111) -/

/-- The words read take the reserved entries behind every word present (R110, step 1). -/
def Port.place (slots : List Slot) (ws : List MemWord) (x : Port) : Port :=
  { x with
    fifo := x.fifo ++ List.zipWith (fun sl m => { word := m.data, mark := sl.mark, boundary := some sl.boundary }) slots ws
    reservation := 0 }

/-- The tag of the descriptor a burst was fetched for (R111). -/
def fetchedTag : List Slot → Byte
  | [] => 0
  | sl :: _ => sl.boundary.desc.tag

/-- The PARITY policy (R111), applied once when `bad` words are bad. -/
def parityPolicy (p : PortId) (tag : Byte) (bad : Nat) (s : State) : State :=
  if bad = 0 then s
  else
    let s1 := postPort p .parity tag .noDetail bad s
    if (s.pcfg p).parityFault then fault p .parity s1 else s1

/-- Completion of a replay port's READ_BURST; an orphan's words are thrown away (R114). A running close tests its
end (R129). -/
def replayCompletion (f : Flight) (s : State) : State :=
  match f.who with
  | .port p =>
    let ws := memReads s.mc.mem s.freeIndex f.addr f.count
    let s1 := countReads f.count s
    if f.orphan then s1.updPort p fun x => { x with reservation := 0 }
    else
      closeTest p
        (parityPolicy p (fetchedTag f.slots) (ws.countP isBad) (s1.updPort p (Port.place f.slots ws)))
  | .refresh => s
  | .host => s
  | .controller => s

/-! ### Window (R13, R15) -/

/-- Completion of a window WORD_READ: the latch becomes READY, or the word of a discarded prefetch is thrown away
(R13). -/
def wordReadCompletion (f : Flight) (s : State) : State :=
  let m := memRead s.mc.mem s.freeIndex f.addr
  let s1 := countReads 1 s
  if f.orphan then s1
  else
    let s2 := s1.updWin fun w => { w with latch := .ready m.data }
    if isBad m then setWinError winParity s2 else s2

/-- Completion of a window WORD_WRITE (R15). -/
def wordWriteCompletion (f : Flight) (s : State) : State :=
  (writeMemory f.addr (f.words.map (·.word)) s).updWin fun w => { w with wbuf := none }

/-! ### REFRESH and init steps (R45, R46, R49) -/

/-- Completion of a REFRESH: owed falls, and an episode ends when owed falls below 7 (R49, R51, R52). -/
def refreshCompletion (_f : Flight) (s : State) : State :=
  if s.mc.state = .ready then
    s.updMc fun m => { m with owed := m.owed - 1, lossEpisode := m.lossEpisode && decide (7 ≤ m.owed - 1) }
  else s

/-- The sequence's last step completes (R46). -/
def memReady (n : Nat) (s : State) : State :=
  setSummary summaryMem (post ⟨.memReady, .mem, 0, .noDetail, n⟩
    (s.updMc fun m => { m with
      state := .ready
      init := .idle
      flight := none
      owed := 0
      intervalCount := 0
      lossEpisode := false
      memSuspect := false }))

/-- Completion of an init step: the next step, or READY after the last (R45, R46). -/
def initStep (s : State) : State :=
  match s.mc.init with
  | .step n modeFirst k =>
    if k < n + 1 then
      s.updMc fun m => { m with
        init := .step n modeFirst (k + 1)
        flight := some (initFlight modeFirst n (k + 1)) }
    else memReady n s
  | .idle => s
  | .awaiting => s

/-! ### Memory commands (R171, R172) -/

/-- What follows a chunk: the command ends CANCELLED, NOT_AWAKE or OK, or goes on (R171). -/
def chunkEnd (s : State) : State :=
  match jobOf s with
  | some j =>
    if j.cancel then endMemCommand .cancelled s
    else if s.mc.state ≠ .ready then endMemCommand .notAwake s
    else if j.count ≤ j.covered then endMemCommand .ok s
    else s
  | none => s

/-- A chunk's words are covered. -/
def Job.cover (n : Nat) (j : Job) : Job := { j with covered := j.covered + n }

/-- Completion of a MEM_FILL chunk (R171). -/
def fillCompletion (f : Flight) (s : State) : State :=
  let s1 := writeMemory f.addr (f.words.map (·.word)) s
  match s.hp.seq.running with
  | some (.memFill j pattern) =>
    chunkEnd (s1.updSeq fun q => { q with running := some (.memFill (j.cover f.count) pattern) })
  | some (.regionCrc _ _ _) => s1
  | some (.portAbort _) => s1
  | some .doze => s1
  | none => s1

/-- Feed the words read into the CRC and count the bad ones (R172). -/
def crcWords : List MemWord → Word × Nat → Word × Nat
  | [], acc => acc
  | m :: ms, (crc, errors) => crcWords ms (crcWord crc m.data, if isBad m then saturate 65535 errors else errors)

/-- Completion of a REGION_CRC chunk (R172). -/
def crcCompletion (f : Flight) (s : State) : State :=
  let s1 := countReads f.count s
  match s.hp.seq.running with
  | some (.regionCrc j crc errors) =>
    let r := crcWords (memReads s.mc.mem s.freeIndex f.addr f.count) (crc, errors)
    chunkEnd (s1.updSeq fun q => { q with running := some (.regionCrc (j.cover f.count) r.1 r.2) })
  | some (.memFill _ _) => s1
  | some (.portAbort _) => s1
  | some .doze => s1
  | none => s1

/-! ### The rows -/

/-- A burst granted to a port. -/
def portBurst (k : Kind) (f : Flight) : Bool :=
  f.kind == k && (match f.who with
    | .port _ => true
    | .refresh => false
    | .host => false
    | .controller => false)

/-- A transaction granted to HOST. -/
def hostBurst (k : Kind) (f : Flight) : Bool := f.kind == k && f.who == .host

/-- WRITE_BURST_COMPLETION (R106). -/
def execWriteBurstCompletion (s : State) : Host.Outcome State Fault Refusal :=
  event (complete (portBurst .writeBurst) captureCompletion) s

/-- READ_BURST_COMPLETION (R110). -/
def execReadBurstCompletion (s : State) : Host.Outcome State Fault Refusal :=
  event (complete (portBurst .readBurst) replayCompletion) s

/-- WORD_READ_COMPLETION (R13). -/
def execWordReadCompletion (s : State) : Host.Outcome State Fault Refusal :=
  event (complete (hostBurst .wordRead) wordReadCompletion) s

/-- WORD_WRITE_COMPLETION (R15). -/
def execWordWriteCompletion (s : State) : Host.Outcome State Fault Refusal :=
  event (complete (hostBurst .wordWrite) wordWriteCompletion) s

/-- REFRESH_COMPLETION (R49). -/
def execRefreshCompletion (s : State) : Host.Outcome State Fault Refusal :=
  event (complete (fun f => f.who == .refresh) refreshCompletion) s

/-- INIT_STEP_COMPLETION (R45): an init step leaves the grant record empty and needs no fairness update (R59). -/
def execInitStepCompletion (s : State) : Host.Outcome State Fault Refusal :=
  event (fun s => match s.mc.flight with
    | some f => if f.who == .controller then deferredReset (initStep s) else s
    | none => s) s

/-- MEM_FILL_CHUNK_COMPLETION (R171). -/
def execMemFillChunkCompletion (s : State) : Host.Outcome State Fault Refusal :=
  event (complete (hostBurst .writeBurst) fillCompletion) s

/-- REGION_CRC_CHUNK_COMPLETION (R172). -/
def execRegionCrcChunkCompletion (s : State) : Host.Outcome State Fault Refusal :=
  event (complete (hostBurst .readBurst) crcCompletion) s

/-- ABORT_EXECUTE (R134): a PORT_ABORT that waits, no transaction being in flight any more, executes and its command
completes. A completion carries this out itself (R133; log entry 10). -/
def execAbortExecute (s : State) : Host.Outcome State Fault Refusal :=
  event (fun s => match s.hp.seq.running with
    | some (.portAbort p) =>
      if s.mc.flight.isNone then finish .ok {} (closeGrant (abortPort p s)) else s
    | some (.memFill _ _) => s
    | some (.regionCrc _ _ _) => s
    | some .doze => s
    | none => s) s

/-- CAPTURE_CLOSE_END (R128): the drain of a CLOSING capture port is at its end. The completion or the PORT_CLOSE
that brings it there carries this out itself (R127; log entry 10). -/
def execCaptureCloseEnd (p : PortId) (s : State) : Host.Outcome State Fault Refusal :=
  event (fun s => if (s.pcfg p).dir = .capture then closeTest p s else s) s

/-- REPLAY_CLOSE_END (R129): the drain of a CLOSING replay port is at its end. The emission, completion or
PORT_CLOSE that brings it there carries this out itself (R129; log entry 10). -/
def execReplayCloseEnd (p : PortId) (s : State) : Host.Outcome State Fault Refusal :=
  event (fun s => if (s.pcfg p).dir = .replay then closeTest p s else s) s

end Sys2Proof.Machine
end

