-- ==== Sys2Proof/Machine/Registers.lean ====
section
/-! DEFINITION. The rows that are host accesses to registers other than CMD (Chapter 1). The effect of each stands in
Machine/HostPort.lean and Machine/Window.lean. -/

namespace Sys2Proof.Machine

/-- SOFT_RESET (R178, R3): effect `requestSoftReset`. -/
def execSoftReset (w : Word) (s : State) : Host.Outcome State Fault Refusal := hostWrite offDevCtrl w s

/-- CMD_CANCEL (R10, R3): effect `requestCancel`. -/
def execCmdCancel (w : Word) (s : State) : Host.Outcome State Fault Refusal := hostWrite offDevCtrl w s

/-- XEN_SET (R4): effect `writeXenSet`. -/
def execXenSet (w : Word) (s : State) : Host.Outcome State Fault Refusal := hostWrite offXenSet w s

/-- XEN_CLR (R4): effect `writeXenClr`. -/
def execXenClr (w : Word) (s : State) : Host.Outcome State Fault Refusal := hostWrite offXenClr w s

/-- SUMMARY_READ (R151): effect `readSummary`. -/
def execSummaryRead (s : State) : Host.Outcome State Fault Refusal := hostRead offSummary s

/-- EVQ_POP (R148, R149): effect `popEvent`. -/
def execEvqPop (s : State) : Host.Outcome State Fault Refusal := hostRead offEvqPop s

/-- EVQ_THRESH_WRITE (R5): effect `writeEvqThresh`. -/
def execEvqThreshWrite (w : Word) (s : State) : Host.Outcome State Fault Refusal := hostWrite offEvqThresh w s

/-- WIN_ADDR_LO_WRITE (R12): effect `writeWinAddrLo`. -/
def execWinAddrLoWrite (w : Word) (s : State) : Host.Outcome State Fault Refusal := hostWrite offWinAddrLo w s

/-- WIN_ADDR_HI_WRITE (R12): effect `writeWinAddrHi`. -/
def execWinAddrHiWrite (w : Word) (s : State) : Host.Outcome State Fault Refusal := hostWrite offWinAddrHi w s

/-- WIN_DATA_READ (R14): effect `readWinData`. -/
def execWinDataRead (s : State) : Host.Outcome State Fault Refusal := hostRead offWinData s

/-- WIN_DATA_WRITE (R15): effect `writeWinData`. -/
def execWinDataWrite (w : Word) (s : State) : Host.Outcome State Fault Refusal := hostWrite offWinData w s

/-- CFG_DATA_WRITE (R18): effect `writeCfgData`. -/
def execCfgDataWrite (w : Word) (s : State) : Host.Outcome State Fault Refusal := hostWrite offCfgData w s

/-- START (R44, R25): the CFG_DATA write of a word with START set, which is a START when CFG_INDEX is 1
(log entry 12): effect `startInit`. -/
def execStart (w : Word) (s : State) : Host.Outcome State Fault Refusal := hostWrite offCfgData w s

/-- REGISTER_WRITE (R1): a host access to any position, by its strobes (log entry 13). -/
def execRegisterWrite (rd wr : Bool) (off : BitVec 6) (w : Word) (s : State) : Host.Outcome State Fault Refusal :=
  hostAccess rd wr off w s

end Sys2Proof.Machine
end

