-- ==== Sys2Proof/Machine/Resets.lean ====
section
/-! DEFINITION. The reset rows (sections 10.2 and 10.3): power-on and pin reset begin and hold the part, the release
loads Table 10-2's values, and a deferred soft reset is applied. -/

namespace Sys2Proof.Machine

/-- Table 10-2's first column (R177, R181, R58): what a power-on or pin reset leaves. -/
def hardReset (cause : ResetCause) (s : State) : State :=
  { State.reset with
    pending := s.pending
    freeIndex := s.freeIndex
    hp := { dataBus := s.hp.dataBus }
    sc := { resetCause := cause } }

/-- A power-on or pin reset begins (R177, R58): at once everything in progress is abandoned without a result, the
contents of memory are lost and the pins go quiet; the part is held. The values of Table 10-2, which the release
loads, are loaded here already, unseen (log entry 9). -/
def beginReset (cause : ResetCause) (s : State) : State := { hardReset cause s with held := some cause }

/-- The cause a reset in progress reports when a RESET_N assertion overlaps it (R177). -/
def pinCause : Option ResetCause → ResetCause
  | some .power => .power
  | some .pin => .pin
  | some .soft => .pin
  | none => .pin

/-- POWER_ON_RESET (R177). -/
def execPowerOnReset (s : State) : Host.Outcome State Fault Refusal := .next (beginReset .power s)

/-- PIN_RESET (R177). -/
def execPinReset (s : State) : Host.Outcome State Fault Refusal := .next (beginReset (pinCause s.held) s)

/-- RESET_RELEASE (R177): with no reset in progress there is nothing to release. DESIGN CHOICE (log entry 20): when a
RESET_N assertion overlaps a power-on reset, this one row is the later of the two ends, which is where the part leaves
reset. -/
def execResetRelease (s : State) : Host.Outcome State Fault Refusal :=
  match s.held with
  | some cause => .next (hardReset cause s)
  | none => event id s

/-- SOFT_RESET_APPLIED (R180): a pending soft reset whose awaited transaction is no longer in flight is applied. The
completion carries this out itself (R178; log entry 10). -/
def execSoftResetApplied (s : State) : Host.Outcome State Fault Refusal :=
  event (fun s => if s.mc.flight.isNone then deferredReset s else s) s

end Sys2Proof.Machine
end

