-- ==== Sys2Proof/Machine/Timebase.lean ====
section
/-! DEFINITION. The timebase (section 10.1): the REFCLK divider, the tick with its four steps, the parts of the tick
that the table lists as rows of their own (log entry 6), and what the part does while no command waits. -/

namespace Sys2Proof.Machine

/-- Step 1 of a tick (R175, R176); the divider count is back at 0 when a tick falls due (R174). -/
def tickCount (s : State) : State :=
  s.updTb fun t => { divider := 0, tickCount := t.tickCount + 1 }

/-- This tick takes the interval count to the interval or past it (R50). -/
def intervalReached (s : State) : Bool := decide (s.sc.cfg.interval ≤ s.mc.intervalCount + 1)

/-- The interval is reached: the count restarts and a rise of owed is attempted (R50, step 3). -/
def riseAtInterval (s : State) : State := owedRise (s.updMc fun m => { m with intervalCount := 0 })

/-- Step 2 of a tick: the refresh account, while the controller is READY (R50). -/
def tickRefresh (s : State) : State :=
  if s.mc.state = .ready then
    if intervalReached s then riseAtInterval s
    else s.updMc fun m => { m with intervalCount := m.intervalCount + 1 }
  else s

/-- The idle count of a port runs, and its idle-declared flag is clear (R93). -/
def idleRuns (k : PortCfg) (x : Port) : Bool :=
  (x.state == .active || x.state == .closing) && k.idleTicks != 0 && !x.idleDeclared

/-- This tick takes port p's idle count to LINK_IDLE(p) (R93). -/
def idleReached (s : State) (p : PortId) : Bool :=
  idleRuns (s.pcfg p) (s.port p) && decide ((s.pcfg p).idleTicks ≤ (s.port p).idleCount + 1)

/-- The link is declared idle (R93, step 2); on a CLOSING replay port the close is abandoned (R94, R130). -/
def declareIdle (p : PortId) (s : State) : State :=
  let x := s.port p
  let s1 := postPort p .linkIdle x.headTag .noDetail x.fifo.length
    (s.updPort p fun y => { y with idleCount := y.idleCount + 1, idleDeclared := true })
  if x.state = .closing ∧ (s.pcfg p).dir = .replay then abandon p s1 else s1

/-- Step 3 of a tick for one port (R93). -/
def tickLinkIdle (p : PortId) (s : State) : State :=
  if idleReached s p then declareIdle p s
  else if idleRuns (s.pcfg p) (s.port p) then s.updPort p fun y => { y with idleCount := y.idleCount + 1 }
  else s

/-- A tick (R176). Step 4, the event age, is the recomputation of INT_N that ends every event. -/
def tickSteps (s : State) : State :=
  tickLinkIdle .p3 (tickLinkIdle .p2 (tickLinkIdle .p1 (tickLinkIdle .p0 (tickRefresh (tickCount s)))))

/-- TICK (R176). -/
def execTick (s : State) : Host.Outcome State Fault Refusal := event tickSteps s

/-- OWED_RISE (R50): the refresh step of a tick that reaches the interval, by itself. -/
def execOwedRise (s : State) : Host.Outcome State Fault Refusal :=
  event (fun s => if s.mc.state = .ready ∧ intervalReached s = true then riseAtInterval s else s) s

/-- LINK_IDLE (R93): the link-idle step of a tick that reaches LINK_IDLE(p), by itself. -/
def execLinkIdle (p : PortId) (s : State) : Host.Outcome State Fault Refusal :=
  event (fun s => if idleReached s p then declareIdle p s else s) s

/-- EVENT_AGE (R154): the age term is judged on TICK_COUNT and INT_N recomputed; nothing else changes. -/
def execEventAge (s : State) : Host.Outcome State Fault Refusal := event id s

/-- One REFCLK period (R174; log entry 2). When the divider reaches the divisor
a tick falls due: it joins the queue. A part held in reset produces no ticks (R177). -/
def refclkPeriod (s : State) : State :=
  if s.held.isSome then s
  else if s.sc.cfg.divisor ≤ s.tb.divider + 1 then
    { s.updTb (fun t => { t with divider := 0 }) with pending := s.pending ++ [.tick] }
  else s.updTb fun t => { t with divider := t.divider + 1 }

/-- What the part does while no command waits (log entry 2): every event of the instant has been processed, so the
end-of-instant steps that are due are taken, the sleep test before the arbitration point (R142, R56, R62); with none
due, one REFCLK period passes. A part held in reset does nothing (R177). -/
def onEmptyQueue (s : State) : State :=
  if s.held.isSome then s
  else if sleepDue s then settle (enterSleep s)
  else if pointDue s then settle (arbitrate s)
  else refclkPeriod s

end Sys2Proof.Machine
end

