-- ==== Sys2Proof/Machine/Dispatch.lean ====
section
/-! DEFINITION. One arm for each command: its meaning. -/

namespace Sys2Proof.Machine

def exec (i : Instr) (s : State) : Host.Outcome State Fault Refusal :=
  match i with
  | .nop high => Sys2Proof.Machine.execNop high s
  | .arm high => Sys2Proof.Machine.execArm high s
  | .disarm high => Sys2Proof.Machine.execDisarm high s
  | .doze high => Sys2Proof.Machine.execDoze high s
  | .wake high => Sys2Proof.Machine.execWake high s
  | .portOpen high => Sys2Proof.Machine.execPortOpen high s
  | .portClose high => Sys2Proof.Machine.execPortClose high s
  | .portAbort high => Sys2Proof.Machine.execPortAbort high s
  | .segPost high => Sys2Proof.Machine.execSegPost high s
  | .segFlush high => Sys2Proof.Machine.execSegFlush high s
  | .queueStatus high => Sys2Proof.Machine.execQueueStatus high s
  | .markRead high => Sys2Proof.Machine.execMarkRead high s
  | .memFill high => Sys2Proof.Machine.execMemFill high s
  | .regionCrc high => Sys2Proof.Machine.execRegionCrc high s
  | .undefinedCommand w => Sys2Proof.Machine.execUndefinedCommand w s
  | .overlap w => Sys2Proof.Machine.execOverlap w s
  | .softReset w => Sys2Proof.Machine.execSoftReset w s
  | .cmdCancel w => Sys2Proof.Machine.execCmdCancel w s
  | .xenSet w => Sys2Proof.Machine.execXenSet w s
  | .xenClr w => Sys2Proof.Machine.execXenClr w s
  | .summaryRead => Sys2Proof.Machine.execSummaryRead s
  | .evqPop => Sys2Proof.Machine.execEvqPop s
  | .evqThreshWrite w => Sys2Proof.Machine.execEvqThreshWrite w s
  | .winAddrLoWrite w => Sys2Proof.Machine.execWinAddrLoWrite w s
  | .winAddrHiWrite w => Sys2Proof.Machine.execWinAddrHiWrite w s
  | .winDataRead => Sys2Proof.Machine.execWinDataRead s
  | .winDataWrite w => Sys2Proof.Machine.execWinDataWrite w s
  | .cfgDataWrite w => Sys2Proof.Machine.execCfgDataWrite w s
  | .start w => Sys2Proof.Machine.execStart w s
  | .registerWrite rd wr off w => Sys2Proof.Machine.execRegisterWrite rd wr off w s
  | .captureBeat p w mark => Sys2Proof.Machine.execCaptureBeat p w mark s
  | .replayBeat p => Sys2Proof.Machine.execReplayBeat p s
  | .heldOffer p => Sys2Proof.Machine.execHeldOffer p s
  | .tick => Sys2Proof.Machine.execTick s
  | .owedRise => Sys2Proof.Machine.execOwedRise s
  | .linkIdle p => Sys2Proof.Machine.execLinkIdle p s
  | .eventAge => Sys2Proof.Machine.execEventAge s
  | .writeBurstCompletion => Sys2Proof.Machine.execWriteBurstCompletion s
  | .readBurstCompletion => Sys2Proof.Machine.execReadBurstCompletion s
  | .wordReadCompletion => Sys2Proof.Machine.execWordReadCompletion s
  | .wordWriteCompletion => Sys2Proof.Machine.execWordWriteCompletion s
  | .refreshCompletion => Sys2Proof.Machine.execRefreshCompletion s
  | .initStepCompletion => Sys2Proof.Machine.execInitStepCompletion s
  | .memFillChunkCompletion => Sys2Proof.Machine.execMemFillChunkCompletion s
  | .regionCrcChunkCompletion => Sys2Proof.Machine.execRegionCrcChunkCompletion s
  | .arbitrationPoint => Sys2Proof.Machine.execArbitrationPoint s
  | .sleepEntry => Sys2Proof.Machine.execSleepEntry s
  | .softResetApplied => Sys2Proof.Machine.execSoftResetApplied s
  | .powerOnReset => Sys2Proof.Machine.execPowerOnReset s
  | .pinReset => Sys2Proof.Machine.execPinReset s
  | .resetRelease => Sys2Proof.Machine.execResetRelease s
  | .abortExecute => Sys2Proof.Machine.execAbortExecute s
  | .captureCloseEnd p => Sys2Proof.Machine.execCaptureCloseEnd p s
  | .replayCloseEnd p => Sys2Proof.Machine.execReplayCloseEnd p s

end Sys2Proof.Machine
end

