-- ==== Sys2Proof/Safety.lean ====
section
/-! DEFINITION. What a sound run and a sound state are, in the terms the statements use: the order of an instant
(R141, R142), the conditions under which the part takes a host write, what a command write starts, and the
invariants. -/

namespace Sys2Proof.Safety

open Sys2Proof.Machine

/-! ### The order of an instant (R141, R142) -/

/-- The place of a command within an instant: a completion, a tick, the links of P0 to P3, the host access, the
sleep test, the arbitration point. A reset is a place of its own: it takes effect at once (R177). -/
def phase : Instr → Nat
  | .writeBurstCompletion | .readBurstCompletion | .wordReadCompletion | .wordWriteCompletion | .refreshCompletion
  | .initStepCompletion | .memFillChunkCompletion | .regionCrcChunkCompletion | .abortExecute | .captureCloseEnd _
  | .replayCloseEnd _ | .softResetApplied => 0
  | .tick | .owedRise | .linkIdle _ | .eventAge => 1
  | .captureBeat p _ _ => 2 + portIndex p
  | .replayBeat p => 2 + portIndex p
  | .heldOffer p => 2 + portIndex p
  | .nop _ | .arm _ | .disarm _ | .doze _ | .wake _ | .portOpen _ | .portClose _ | .portAbort _ | .segPost _
  | .segFlush _ | .queueStatus _ | .markRead _ | .memFill _ | .regionCrc _ | .undefinedCommand _ | .overlap _
  | .softReset _ | .cmdCancel _ | .xenSet _ | .xenClr _ | .summaryRead | .evqPop | .evqThreshWrite _
  | .winAddrLoWrite _ | .winAddrHiWrite _ | .winDataRead | .winDataWrite _ | .cfgDataWrite _ | .start _
  | .registerWrite _ _ _ _ => 6
  | .sleepEntry => 7
  | .arbitrationPoint => 8
  | .powerOnReset | .pinReset | .resetRelease => 9

/-- The commands of one instant stand in the order of R141 and R142, at most one of each place. -/
def instantOrdered : List Instr → Bool
  | [] => true
  | [_] => true
  | a :: b :: rest => decide (phase a < phase b) && instantOrdered (b :: rest)

/-! ### Taking host accesses -/

/-- The part takes host writes to every position: it is not held in reset (R177) and no soft reset is pending
(R1, R179). -/
abbrev Listening (s : State) : Prop := s.held = none ∧ s.sc.resetPending = false

/-- The command sequencer is IDLE. -/
abbrev SequencerIdle (s : State) : Prop := s.hp.seq.running = none

/-- A CMD write starts a command now (R7). -/
abbrev TakesCommand (s : State) : Prop := Listening s ∧ SequencerIdle s

/-- The port that bits 9:8 of a CMD write name, from the word's high byte (R7). -/
def portField (high : Byte) : PortId := portOf (high.extractLsb' 0 2)

/-- What R7 does before the command executes: DONE, OVERLAP, RESULT and RES0 to RES3 are cleared; code, port and
ARG0 to ARG7 are latched. -/
def started (code : Byte) (p : PortId) (s : State) : State :=
  { s with hp := { s.hp with seq :=
      { s.hp.seq with
        latched := { code := code, port := p, args := s.hp.seq.args }
        done := false
        overlap := false
        result := .ok
        res := {} } } }

/-- A started command that stays BUSY (R8). -/
def busy (r : Running) (s : State) : State :=
  { s with hp := { s.hp with seq := { s.hp.seq with running := some r } } }

/-- The completion step of a command (R8). -/
def ended (r : Result) (q : Words4) (s : State) : State :=
  { s with
    hp := { s.hp with seq := { s.hp.seq with running := none, done := true, result := r, res := q } }
    eu := { s.eu with summary := s.eu.summary ||| 0x10 } }

/-- Every port is CLOSED. -/
abbrev AllClosed (s : State) : Prop := ∀ p : PortId, (s.port p).state = .closed

/-- The rows that are CMD writes of Table 9-1: the code and the high byte of the word written. -/
def cmdRow : Instr → Option (Byte × Byte)
  | .nop h => some (0x00, h)
  | .arm h => some (0x10, h)
  | .disarm h => some (0x11, h)
  | .doze h => some (0x12, h)
  | .wake h => some (0x13, h)
  | .portOpen h => some (0x20, h)
  | .portClose h => some (0x21, h)
  | .portAbort h => some (0x22, h)
  | .segPost h => some (0x30, h)
  | .segFlush h => some (0x31, h)
  | .queueStatus h => some (0x32, h)
  | .markRead h => some (0x33, h)
  | .memFill h => some (0x40, h)
  | .regionCrc h => some (0x41, h)
  | _ => none

/-- The rows that write a register: its offset and the word. -/
def hostWriteOf : Instr → Option (BitVec 6 × Word)
  | .undefinedCommand w => some (0x05, w)
  | .overlap w => some (0x05, w)
  | .softReset w => some (0x04, w)
  | .cmdCancel w => some (0x04, w)
  | .xenSet w => some (0x14, w)
  | .xenClr w => some (0x15, w)
  | .evqThreshWrite w => some (0x1E, w)
  | .winAddrLoWrite w => some (0x20, w)
  | .winAddrHiWrite w => some (0x21, w)
  | .winDataWrite w => some (0x22, w)
  | .cfgDataWrite w => some (0x25, w)
  | .start w => some (0x25, w)
  | .registerWrite false true off w => some (off, w)
  | c => (cmdRow c).map fun e => (0x05, e.2 ++ e.1)

/-- A row of R20's table: code, then the refusing result in SETUP, ARMED and DOZE, or none where admitted.
MEM_FILL and REGION_CRC in SETUP depend on the memory state: see `deviceRefusal`. -/
def deviceTable : List (Byte × Option Result × Option Result × Option Result) :=
  [(0x00, none, none, none),
   (0x10, none, some .badState, some .badState),
   (0x11, some .badState, none, some .badState),
   (0x12, some .badState, none, some .badState),
   (0x13, some .badState, some .badState, none),
   (0x20, some .badState, none, some .notAwake),
   (0x21, some .badState, none, some .badState),
   (0x22, some .badState, none, some .badState),
   (0x30, some .badState, none, some .notAwake),
   (0x31, some .badState, none, some .badState),
   (0x32, none, none, none),
   (0x33, none, none, none),
   (0x40, none, none, some .notAwake),
   (0x41, none, none, some .notAwake)]

/-- The device-state check of R20. -/
def deviceRefusal (s : State) (code : Byte) : Option Result :=
  if (code = 0x40 ∨ code = 0x41) ∧ s.sc.device = .setup ∧ s.mc.state ≠ .ready then some .notAwake
  else match deviceTable.lookup code, s.sc.device with
    | some row, .setup => row.1
    | some row, .armed => row.2.1
    | some row, .doze => row.2.2
    | none, _ => some .badCode

/-- R124: the port states that admit each command that takes a port. -/
def portTable : List (Byte × List PState) :=
  [(0x20, [.closed]),
   (0x21, [.idle, .active, .faulted]),
   (0x22, [.idle, .active, .closing, .faulted]),
   (0x30, [.idle, .active]),
   (0x31, [.idle, .active]),
   (0x32, [.closed, .idle, .active, .closing, .faulted]),
   (0x33, [.closed, .idle, .active, .closing, .faulted])]

/-- The checks that stand before a command's own, in the order of R156: the port check of R8, the device-state check
of R20, the port-state check of R124. -/
def refusal (s : State) (code : Byte) (p : PortId) : Option Result :=
  match portTable.lookup code with
  | none => deviceRefusal s code
  | some admitted =>
    if (s.pcfg p).present = false then some .badPort
    else match deviceRefusal s code with
      | some r => some r
      | none => if (s.port p).state ∈ admitted then none else some .badState

/-- A CMD write of this code and port starts the command and passes every check before its own. -/
abbrev Admitted (s : State) (code : Byte) (p : PortId) : Prop := TakesCommand s ∧ refusal s code p = none

/-- The rows that complete a transaction (R49). -/
def completionRows : List Instr :=
  [.writeBurstCompletion, .readBurstCompletion, .wordReadCompletion, .wordWriteCompletion, .refreshCompletion,
    .initStepCompletion, .memFillChunkCompletion, .regionCrcChunkCompletion]

/-- A command that reads a register position. -/
def isRead : Instr → Bool
  | .summaryRead => true
  | .evqPop => true
  | .winDataRead => true
  | .registerWrite rd _ _ _ => rd
  | _ => false

/-- A command that begins or ends a power-on or pin reset. -/
def isReset : Instr → Bool
  | .powerOnReset => true
  | .pinReset => true
  | .resetRelease => true
  | _ => false

/-! ### What several rules leave -/

/-- Records posted one after another (R146). -/
def postAll (rs : List Report) (s : State) : State := rs.foldl (fun t r => post r t) s

/-- The records of R128, R129, R130, R134 and R135 for a queue: the head is given `kind` with `detail` and its
progress when it has moved a word, and CANCELLED otherwise; every entry behind it is CANCELLED with count 0. -/
def outcomes (p : PortId) (kind : EvKind) (detail cancelled : Detail) : List QEntry → List Report
  | [] => []
  | h :: t =>
    (if h.progress = 0 then ⟨.segCancelled, .port p, h.desc.tag, cancelled, 0⟩
      else ⟨kind, .port p, h.desc.tag, detail, h.progress⟩) ::
    t.map fun e => ⟨.segCancelled, .port p, e.desc.tag, cancelled, 0⟩

/-- Port p with its fields replaced. -/
def withPort (p : PortId) (x : Port) (s : State) : State := { s with ports := s.ports.set p x }

/-- Entry into CLOSED (R132): one PORT_CLOSED record; the port keeps its mark log and its counters and nothing else;
its fairness state is OPEN. -/
def shut (p : PortId) (detail : Detail) (count : Nat) (s : State) : State :=
  let x := s.port p
  { post ⟨.portClosed, .port p, 0, detail, count⟩ s with
    ports := s.ports.set p { drop := x.drop, fill := x.fill, marks := x.marks, overwrites := x.overwrites }
    ma := { s.ma with ports := s.ma.ports.set p .opened } }

/-- A fault of port p (R135): the outcomes, the transaction in flight orphaned, the port emptied and FAULTED, the
PORT_FAULT record, SUMMARY.PFAULT. -/
def faultState (p : PortId) (cause : Detail) (s : State) : State :=
  let x := s.port p
  let s1 := orphanFlight p (postAll (outcomes p .segAborted .fault .fault x.queue) s)
  let y : Port :=
    { state := .faulted, drop := x.drop, fill := x.fill, marks := x.marks, overwrites := x.overwrites,
      stopBlock := if x.stopBlock = .clear then .clear else .left }
  let s2 := withPort p y s1
  let tag : Byte := match x.queue with | [] => 0 | h :: _ => h.desc.tag
  let s3 := post ⟨.portFault, .port p, tag, cause, x.fifo.length⟩ s2
  { s3 with eu := { s3.eu with summary := s3.eu.summary ||| 0x20 } }

/-- The end test of a running close (R127, R129): a CLOSING port whose drain has reached its end is closed, with its
outcomes first (R128); any other port stays as it is. -/
def drainOver (p : PortId) (s : State) : State :=
  let x := s.port p
  if x.state = .closing ∧
      (((s.pcfg p).dir = .capture ∧ liveFlight s p = false ∧ (x.fifo = [] ∨ x.queue = [])) ∨
        ((s.pcfg p).dir = .replay ∧ x.fifo = [] ∧ x.reservation = 0)) then
    shut p .close x.fifo.length (postAll (outcomes p .segShort .close .close x.queue) s)
  else s

/-- The controller's step at the completion of a granted transaction (R49, step 1): it is free again, or, when a START
arrived during the transaction, it issues PRECHARGE_ALL with the count and the order MEM_GEOM holds now (R44, R45). -/
def freed (s : State) : State :=
  if s.mc.init = .awaiting then
    { s with mc := { s.mc with
      init := .step (max 2 (bits s.sc.cfg.memGeom 4 4)) (flag s.sc.cfg.memGeom 8) 0
      flight := some { kind := .prechargeAll, who := .controller } } }
  else { s with mc := { s.mc with flight := none } }

/-- What the completion of a capture port's WRITE_BURST leaves, in the order of R106, from the state in which the
controller has ended the transaction: the words are in memory (R48), the head's progress rises, MARK words are logged
(R103), the guard is reported when its word is among them (R104), the head is DONE at its SPLIT mark or its last word
(R105), and a drain at its end is closed (R127). An orphan writes its words and does nothing more (R114). -/
def capturedBurst (p : PortId) (f : Flight) (s : State) : State :=
  let stored : State := { s with mc := { s.mc with mem := memWrite s.mc.mem f.addr (f.words.map (·.word)) } }
  let n := f.count
  if f.orphan then stored
  else match (s.port p).queue with
    | [] => drainOver p stored
    | h :: t =>
      let x := { s.port p with queue := { h with progress := h.progress + n } :: t }
      let logged := withPort p (x.logMarks h.desc.tag h.progress f.addr f.words) stored
      let told := match h.desc.guard with
        | some g =>
          if h.progress ≤ g ∧ g < h.progress + n then post ⟨.guard, .port p, h.desc.tag, .noDetail, g⟩ logged else logged
        | none => logged
      drainOver p
        (if h.desc.last = true ∧ f.words.getLast?.map (·.mark) = some true then doneHead p .markEnd told
        else if h.progress + n = h.desc.length then doneHead p .noDetail told
        else told)

/-- What the completion of a replay port's READ_BURST leaves, in the order of R110: the words take the reserved entries,
bad words are reported once and fault the port under PARITY FAULT (R111), and a drain at its end is closed (R129). An
orphan's words are thrown away (R114). Each word read uses one free value, used or not (log entry 3). -/
def replayedBurst (p : PortId) (f : Flight) (s : State) : State :=
  let ws := (List.range f.count).map fun k => memRead s.mc.mem (s.freeIndex + k) (f.addr + k)
  let bad := ws.countP isBad
  let tag : Byte := match f.slots with | [] => 0 | sl :: _ => sl.boundary.desc.tag
  let read : State := { s with freeIndex := s.freeIndex + f.count }
  if f.orphan then withPort p { s.port p with reservation := 0 } read
  else
    let entries := List.zipWith (fun sl m => { word := m.data, mark := sl.mark, boundary := some sl.boundary }) f.slots ws
    let placed := withPort p { s.port p with fifo := (s.port p).fifo ++ entries, reservation := 0 } read
    let told := post ⟨.parity, .port p, tag, .noDetail, bad⟩ placed
    drainOver p
      (if bad = 0 then placed else if (s.pcfg p).parityFault then faultState p .parity told else told)

/-- The row that is the completion of a transaction in flight (R47, R49). -/
def Completes (c : Instr) (f : Flight) : Prop :=
  (c = .writeBurstCompletion ∧ f.kind = .writeBurst ∧ ∃ p, f.who = .port p) ∨
  (c = .readBurstCompletion ∧ f.kind = .readBurst ∧ ∃ p, f.who = .port p) ∨
  (c = .wordReadCompletion ∧ f.kind = .wordRead ∧ f.who = .host) ∨
  (c = .wordWriteCompletion ∧ f.kind = .wordWrite ∧ f.who = .host) ∨
  (c = .memFillChunkCompletion ∧ f.kind = .writeBurst ∧ f.who = .host) ∨
  (c = .regionCrcChunkCompletion ∧ f.kind = .readBurst ∧ f.who = .host) ∨
  (c = .refreshCompletion ∧ f.who = .refresh) ∨
  (c = .initStepCompletion ∧ f.who = .controller)

/-- The window with its prefetch latch discarded (R13), and a WORD_READ already granted marked so that its word is
thrown away. -/
def unlatched (s : State) : State :=
  { s with
    hp := { s.hp with win := { s.hp.win with latch := .empty } }
    mc := { s.mc with flight := s.mc.flight.map fun f => if f.kind = .wordRead then { f with orphan := true } else f } }

/-- The state a soft reset leaves (Table 10-2, second column). -/
def softResetState (s : State) : State :=
  { pending := s.pending
    freeIndex := s.freeIndex
    held := s.held
    hp := { dataBus := s.hp.dataBus }
    sc := { device := .setup, cfg := s.sc.cfg, resetCause := .soft, resetPending := false }
    mc := { s.mc with sleepRequest := false, state := if s.mc.state = .sleep then .ready else s.mc.state }
    tb := s.tb }

/-- The bits of a configuration word that belong to a field, by index (Table 2-1). -/
def fieldMask (i : Nat) : Word :=
  if i = 0 then 0x01F3
  else if i = 2 then 0x0FFF
  else if i = 3 then 0xFFFF
  else if i = 4 then 0xFFFF
  else if i < 8 ∨ 40 ≤ i then 0
  else match (i - 8) % 8 with
    | 0 => 0x00FF
    | 1 => 0x0FFF
    | 2 => 0x1FFF
    | 3 => 0x7F3F
    | 4 => 0x1F1F
    | 5 => 0x00FF
    | 6 => 0xFFFF
    | _ => 0

/-- Place of a requester in requester index order (R60, R65). -/
def requesterIndex : Requester → Nat
  | .refresh => 0
  | .host => 1
  | .port p => 2 + portIndex p
  | .controller => 6

/-! ### A legal configuration, as R35 and R36 list its conditions -/

/-- The conditions on one PRESENT port. -/
structure LegalPort (size : Nat) (k : PortCfg) : Prop where
  normalLevel : k.normalLevel ≤ 15
  urgentLevel : k.urgentLevel ≤ 15
  flow        : (k.dir = .capture → k.flowCode ≤ 2) ∧ (k.dir = .replay → k.flowCode ≤ 1)
  burst       : k.burstCode ≤ 3
  regionSize  : 1 ≤ k.sizeUnits ∧ k.sizeUnits ≤ 4096
  watermarks  : 1 ≤ k.normalWm ∧ k.normalWm < k.urgentWm ∧ k.urgentWm ≤ 64
  regionFits  : k.regionEnd ≤ size

/-- The conditions on the whole configuration space. -/
structure LegalCfg (c : Cfg) : Prop where
  sizeSelect    : c.sizeSelect ≠ 3
  tickDiv       : 16 ≤ c.tickDiv.toNat
  interval      : bits c.refresh 0 8 ≠ 0
  urgentLimit   : 1 ≤ c.urgentLimit ∧ c.urgentLimit ≤ 6
  hostLevel     : c.hostLevel ≤ 15
  refreshNormal : c.refreshNormalLevel ≤ 15
  refreshUrgent : c.refreshUrgentLevel ≤ 15
  ports         : ∀ p : PortId, (c.ports.get p).present = true → LegalPort c.memorySize (c.ports.get p)
  regionsApart  : ∀ p q : PortId, p ≠ q → (c.ports.get p).present = true → (c.ports.get q).present = true →
    (c.ports.get p).regionEnd ≤ (c.ports.get q).regionFirst ∨ (c.ports.get q).regionEnd ≤ (c.ports.get p).regionFirst
  levelsApart   : ((levelUsers c).map Prod.snd).Nodup

/-! ### The ARM check, failure by failure (R35 to R37) -/

/-- User `u` is in use with level `l` (R37). -/
def LevelUse (c : Cfg) (u l : Nat) : Prop :=
  (u = 0 ∧ l = bits c.arbCtrl 5 5) ∨ (u = 1 ∧ l = bits c.arbCtrl 0 5) ∨ (u = 2 ∧ l = bits c.arbCtrl 10 5) ∨
  ∃ p : PortId, flag (c.ports.get p).pcfg 0 = true ∧
    ((u = 3 + 2 * portIndex p ∧ l = bits (c.ports.get p).levels 0 5) ∨
      (u = 4 + 2 * portIndex p ∧ l = bits (c.ports.get p).levels 8 5))

/-- Address `a` is in the region of a port with these words (R31). -/
def InRegion (k : PortCfg) (a : Nat) : Prop :=
  bits k.regionBase 0 12 * 1024 ≤ a ∧ a < (bits k.regionBase 0 12 + bits k.regionSize 0 13) * 1024

/-- The memory size in units of 1024 words, by size select (R24, R35). -/
def memoryUnits (c : Cfg) : Nat :=
  match bits c.memGeom 0 2 with
  | 0 => 1024
  | 1 => 2048
  | 2 => 4096
  | _ => 0

/-- `f` is the report of a global item that fails (R36, items 1 to 7). -/
def GlobalFails (c : Cfg) (f : ArmFailure) : Prop :=
  (bits c.memGeom 0 2 = 3 ∧ f = { code := 2, item := 1 }) ∨
  (c.tickDiv.toNat < 16 ∧ f = { code := 2, item := 2 }) ∨
  (bits c.refresh 0 8 = 0 ∧ f = { code := 2, item := 3 }) ∨
  (¬ (1 ≤ bits c.refresh 8 4 ∧ bits c.refresh 8 4 ≤ 6) ∧ f = { code := 2, item := 4 }) ∨
  (15 < bits c.arbCtrl 10 5 ∧ f = { code := 2, item := 5 }) ∨
  (15 < bits c.arbCtrl 5 5 ∧ f = { code := 2, item := 6 }) ∨
  (15 < bits c.arbCtrl 0 5 ∧ f = { code := 2, item := 7 })

/-- `f` is the report of a check that fails on port `n`, which is PRESENT, in a memory of `units` times 1024 words (R35,
checks 3 to 5; R36, items 8 and 9). -/
def PortFails (units : Nat) (k : PortCfg) (n : Nat) (f : ArmFailure) : Prop :=
  let flow := bits k.pcfg 2 2
  let size := bits k.regionSize 0 13
  let normalWm := bits k.wm 0 6
  let urgentWm := bits k.wm 8 7
  (15 < bits k.levels 0 5 ∧ f = { code := 2, item := 8, first := n }) ∨
  (15 < bits k.levels 8 5 ∧ f = { code := 2, item := 9, first := n }) ∨
  ((flow = 3 ∨ (flag k.pcfg 1 = true ∧ flow = 2)) ∧ f = { code := 3, item := 1, first := n }) ∨
  (4 ≤ bits k.pcfg 5 3 ∧ f = { code := 3, item := 2, first := n }) ∨
  ((size = 0 ∨ 4097 ≤ size) ∧ f = { code := 3, item := 3, first := n }) ∨
  (¬ (1 ≤ normalWm ∧ normalWm < urgentWm ∧ urgentWm ≤ 64) ∧ f = { code := 4, first := n }) ∨
  (units < bits k.regionBase 0 12 + size ∧ f = { code := 5, first := n })

/-- `f` reports two PRESENT ports whose regions share a word (R35, check 6; R37). -/
def OverlapFails (c : Cfg) (f : ArmFailure) : Prop :=
  ∃ p q : PortId, portIndex p < portIndex q ∧ flag (c.ports.get p).pcfg 0 = true ∧ flag (c.ports.get q).pcfg 0 = true ∧
    (∃ a, InRegion (c.ports.get p) a ∧ InRegion (c.ports.get q) a) ∧
    f = { code := 6, first := portIndex p, second := portIndex q }

/-- `f` reports two level users with the same level (R35, check 7; R37). -/
def LevelFails (c : Cfg) (f : ArmFailure) : Prop :=
  ∃ u v l, u < v ∧ LevelUse c u l ∧ LevelUse c v l ∧ f = { code := 7, users := (u, v, l) }

/-- `f` is the report of a check that fails (R35, R36, R37), whichever others fail. -/
def Fails (s : State) (f : ArmFailure) : Prop :=
  let c := s.sc.cfg
  (s.mc.state ≠ .ready ∧ f = { code := 1 }) ∨ GlobalFails c f ∨
    (∃ p : PortId, flag (c.ports.get p).pcfg 0 = true ∧
      PortFails (memoryUnits c) (c.ports.get p) (portIndex p) f) ∨
    OverlapFails c f ∨ LevelFails c f

/-- The place of a failure in the order of the checks, digit by hexadecimal digit: the memory state; the global items,
then items 8 and 9 of each port; checks 3, 4 and 5 of each port; the pairs of ports; the pairs of level users. -/
def checkPlace (f : ArmFailure) : Nat :=
  match f.code with
  | 1 => 0
  | 2 => 0x1000 + (if f.item ≤ 7 then 0 else 1 + f.first) * 16 + f.item
  | 6 => 0x3000 + f.first * 16 + f.second
  | 7 => 0x4000 + f.users.1 * 16 + f.users.2.1
  | code => 0x2000 + f.first * 256 + code * 16 + f.item

/-- The failure that ARM reports: the first in the order of R35, R36 and R37. -/
def FirstFailure (s : State) (f : ArmFailure) : Prop :=
  Fails s f ∧ ∀ g, Fails s g → checkPlace f ≤ checkPlace g

/-! ### Gated requests (R51, R60, R61) -/

/-- HOST requests: a PENDING write, a running MEM_FILL or REGION_CRC, or a PENDING prefetch (R60). -/
def HostRequests (s : State) : Prop :=
  s.hp.win.wbuf ≠ none ∨ (∃ j pattern, s.hp.seq.running = some (.memFill j pattern)) ∨
    (∃ j crc errors, s.hp.seq.running = some (.regionCrc j crc errors)) ∨ s.hp.win.latch = .pending

/-- `c` is a gated request, with the urgency it carries and the level it is arbitrated at. REFRESH's urgency is that of
the urgent limit as stored, also when it has changed since the last tick: the model's choice, log entry 19. -/
def GatedRequest (s : State) (c : Candidate) : Prop :=
  match c.who with
  | .refresh =>
    let limit := bits s.sc.cfg.refresh 8 4
    s.mc.state = .ready ∧ 1 ≤ s.mc.owed ∧
      ((limit ≤ s.mc.owed ∧ c.urg = .urgent ∧ c.level = bits s.sc.cfg.arbCtrl 0 5) ∨
        (s.mc.owed < limit ∧ c.urg = .normal ∧ c.level = bits s.sc.cfg.arbCtrl 5 5))
  | .host => HostRequests s ∧ c.urg = .normal ∧ c.level = bits s.sc.cfg.arbCtrl 10 5
  | .port p =>
    ((s.port p).xen = true ∨ (s.port p).state = .closing) ∧ (s.port p).request = some c.urg ∧
      c.level = (match c.urg with
        | .urgent => bits (s.pcfg p).levels 8 5
        | .normal => bits (s.pcfg p).levels 0 5)
  | .controller => False

/-! ### Parity and CRC (R42, R172) -/

/-- The 1 bits of a byte and its parity bit: lane 0 covers data bits 7:0, lane 1 bits 15:8. -/
def onesInLane (m : MemWord) (lane : Nat) : Nat :=
  (List.range 8).countP (fun i => m.data.getLsbD (8 * lane + i)) + (m.parity.getLsbD lane).toNat

/-- Good parity: each byte and its parity bit together hold an odd number of 1 bits (R42). -/
abbrev GoodParity (m : MemWord) : Prop := onesInLane m 0 % 2 = 1 ∧ onesInLane m 1 % 2 = 1

/-- One data bit enters the CRC register, by the three steps of R172. -/
def crcStep (crc : Word) (bit : Bool) : Word :=
  let feedback := crc.getLsbD 15 != bit
  let shifted : Word := BitVec.ofNat 16 (crc.toNat * 2)
  if feedback then shifted ^^^ 0x1021 else shifted

/-- The CRC register after a list of words: word after word, and within each word from bit 15 down to bit 0 (R172). -/
def crcOver (ws : List Word) (crc : Word) : Word :=
  (ws.flatMap fun w => (List.range 16).map fun k => w.getLsbD (15 - k)).foldl crcStep crc

/-! ### Invariants -/

/-- Buffer memory is in its canonical form, every written word with good parity (R53, R55). -/
abbrev MemoryCanonical (s : State) : Prop := s.mc.mem.wf = true

/-- Sequence numbers run without gaps, modulo 256, up to the counter (R146). -/
def gapless : List EvRecord → Byte → Bool
  | [], _ => true
  | r :: t, n => r.seqNo + BitVec.ofNat 8 (t.length + 1) == n && gapless t n

/-- The Event Unit's state keeps its bounds and the relations of R146 and R147. -/
abbrev EventUnitSound (s : State) : Prop :=
  s.eu.queue.length ≤ 32 ∧ gapless s.eu.queue s.eu.seqNo = true ∧ s.eu.lostCount ≤ 255 ∧
    (s.eu.lost = true → s.eu.queue.length = 32 ∧ 1 ≤ s.eu.lostCount) ∧
    (s.eu.lost = false → s.eu.lostCount = 0) ∧
    1 ≤ s.eu.thresh ∧ s.eu.thresh ≤ 32 ∧ s.eu.age ≤ 255

/-- What R97, R98, R132, R137 and R140 say of one port: bounds, the queue that goes with each state, and an empty
CLOSED port. -/
abbrev PortSound (x : Port) : Prop :=
  x.queue.length ≤ 8 ∧ x.marks.length ≤ 16 ∧ x.overwrites ≤ 255 ∧ x.drop ≤ 65535 ∧ x.fill ≤ 65535 ∧
    (x.state = .active → x.queue ≠ []) ∧
    (x.state = .idle ∨ x.state = .closed ∨ x.state = .faulted → x.queue = []) ∧
    (x.state = .closed ∨ x.state = .faulted → x.xen = false ∧ x.request = none ∧ x.fetch = none ∧
      x.overrun = false ∧ x.underrun = false) ∧
    (x.state = .closed → x.stopBlock = .clear) ∧
    (x.state ≠ .active ∧ x.state ≠ .closing → x.idleCount = 0 ∧ x.idleDeclared = false)

/-- Every port is sound. -/
abbrev PortsSound (s : State) : Prop := ∀ p : PortId, PortSound (s.port p)

/-! #### Words in transfer (R67, R68, R77, R78, R97, R107, R108) -/

/-- The words of a descriptor over all its repetitions: the total its progress counts towards (R97). -/
def wordsOf (d : Desc) : Nat := d.length * d.rpt.getD 1

/-- The boundary information of word `n` of a queue's words, counted from the first word of its head: the entries one
after another, each in all its repetitions (R78, R107). -/
def wordAt : List QEntry → Nat → Option Boundary
  | [], _ => none
  | e :: t, n =>
    if n < wordsOf e.desc then
      some { desc := e.desc, rep := n / e.desc.length + 1, index := n % e.desc.length
             final := decide (n + 1 = wordsOf e.desc) }
    else wordAt t (n - wordsOf e.desc)

/-- The words of the first `n` entries of a queue. -/
def wordsBefore (q : List QEntry) (n : Nat) : Nat := ((q.take n).map fun e => wordsOf e.desc).sum

/-- The entries that a transaction of port p in flight has reserved; an orphan has none left (R68, R114). -/
def liveSlots (s : State) (p : PortId) : List Slot :=
  match s.mc.flight with
  | some f => if f.who = .port p ∧ f.orphan = false then f.slots else []
  | none => []

/-- Words of the head that have been moved (R97). -/
def headProgress (x : Port) : Nat :=
  match x.queue with
  | [] => 0
  | h :: _ => h.progress

/-- The place of a replay port's fetch cursor among the queue's words: past those emitted, those in the FIFO and those
reserved (R107). -/
def fetchedWords (s : State) (p : PortId) : Nat :=
  headProgress (s.port p) + (s.port p).fifo.length + (liveSlots s p).length

/-- R95, R97: every descriptor has words, REPEAT stands on replay ports only, and progress stays below the total: the
head's on its way, every other entry's 0. -/
abbrev QueueSound (k : PortCfg) (x : Port) : Prop :=
  (∀ e ∈ x.queue, 1 ≤ e.desc.length ∧ 1 ≤ e.desc.rpt.getD 1 ∧ (k.dir = .capture → e.desc.rpt = none)) ∧
    (∀ h t, x.queue = h :: t → h.progress < wordsOf h.desc ∧ ∀ e ∈ t, e.progress = 0)

/-- R77, R78: fill and reservation together are at most 64, the reservation is that of the READ_BURST in flight, and a
CLOSED or FAULTED port's FIFO is empty. -/
abbrev FifoSound (s : State) (p : PortId) : Prop :=
  (s.port p).fifo.length + (s.port p).reservation ≤ 64 ∧ (s.port p).reservation = (liveSlots s p).length ∧
    ((s.port p).state = .closed ∨ (s.port p).state = .faulted → (s.port p).fifo = [])

/-- R67, R68: a transaction of port p in flight is a WRITE_BURST of words the head still lacks on a capture port, and a
READ_BURST with an entry reserved for each of its words on a replay port. -/
abbrev BurstSound (s : State) (p : PortId) : Prop :=
  ∀ f, s.mc.flight = some f → f.who = .port p → f.orphan = false → 1 ≤ f.count ∧
    ((s.pcfg p).dir = .capture → f.kind = .writeBurst ∧ f.slots = [] ∧
      ∃ h t, (s.port p).queue = h :: t ∧ h.progress + f.count ≤ h.desc.length) ∧
    ((s.pcfg p).dir = .replay → f.kind = .readBurst ∧ f.slots.length = f.count)

/-- R78, R107, R108: on a replay port the FIFO holds, in order, the words that follow those emitted, the reserved entries
are the words after them, the cursor stands on the word after those, or at tail when there is none, and an entry is
started exactly when its first word has been fetched. -/
abbrev StreamSound (s : State) (p : PortId) : Prop :=
  let x := s.port p
  (s.pcfg p).dir = .replay →
    (∀ i e, x.fifo[i]? = some e → ∃ b, e.boundary = some b ∧ wordAt x.queue (headProgress x + i) = some b) ∧
    (∀ i sl, (liveSlots s p)[i]? = some sl →
      wordAt x.queue (headProgress x + x.fifo.length + i) = some sl.boundary) ∧
    (∀ c, x.fetch = some c → ∃ e, x.queue[c.pos]? = some e ∧ 1 ≤ c.rep ∧ c.rep ≤ e.desc.rpt.getD 1 ∧
      c.off < e.desc.length ∧ wordsBefore x.queue c.pos + (c.rep - 1) * e.desc.length + c.off = fetchedWords s p) ∧
    (x.fetch = none → wordsBefore x.queue x.queue.length = fetchedWords s p) ∧
    (∀ i e, x.queue[i]? = some e → (e.started = true ↔ wordsBefore x.queue i < fetchedWords s p))

/-- Every port's queue, FIFO, transaction in flight and, on a replay port, fetch cursor agree. -/
abbrev TransfersSound (s : State) : Prop :=
  ∀ p : PortId, QueueSound (s.pcfg p) (s.port p) ∧ FifoSound s p ∧ BurstSound s p ∧ StreamSound s p

/-- R35, R37, R19, R20: outside SETUP the configuration is legal, and an open port is PRESENT on an ARMED device. -/
abbrev ConfigurationSound (s : State) : Prop :=
  (s.sc.device ≠ .setup → LegalCfg s.sc.cfg) ∧
    ∀ p : PortId, (s.port p).state ≠ .closed → s.sc.device = .armed ∧ (s.pcfg p).present = true

/-- With fairness disabled every fairness state is OPEN (R73), and a CLOSED port's fairness state is OPEN (R72). -/
abbrev FairnessSound (s : State) : Prop :=
  (s.sc.cfg.fairness = false → s.ma.host = .opened ∧ ∀ p : PortId, s.ma.ports.get p = .opened) ∧
    ∀ p : PortId, (s.port p).state = .closed → s.ma.ports.get p = .opened

/-- The relations of R19 between the device state, the ports and the memory controller, and of R56 and R160 between
the sleep request and the DOZE command. -/
abbrev DeviceSound (s : State) : Prop :=
  (s.sc.device ≠ .armed → AllClosed s) ∧
    (s.sc.device = .armed → s.mc.state = .ready) ∧
    (s.sc.device = .doze ↔ s.mc.state = .sleep) ∧
    (s.mc.sleepRequest = true ↔ s.hp.seq.running = some .doze) ∧
    (s.mc.sleepRequest = true → s.sc.device = .armed ∧ AllClosed s)

/-- The transaction in flight is a granted one, not an init step. -/
def grantedFlight (s : State) : Option Requester :=
  match s.mc.flight with
  | some f => if f.who = .controller then none else some f.who
  | none => none

/-- What R43 to R48 and R59 say of the transaction in flight: which controller states allow one, when it is an init
step, and that the grant record names its requester. A pending soft reset, and a waiting abort, have one to wait for
(R133, R178). -/
abbrev FlightSound (s : State) : Prop :=
  (s.mc.state = .off ∨ s.mc.state = .sleep → s.mc.flight = none) ∧
    (s.mc.state = .init ↔ s.mc.init ≠ .idle) ∧
    (match s.mc.init with
      | .idle => grantedFlight s = s.mc.flight.map Flight.who
      | .awaiting => (grantedFlight s).isSome = true
      | .step n modeFirst k => k ≤ n + 1 ∧ s.mc.flight = some (initFlight modeFirst n k)) ∧
    s.ma.grant.map Grant.who = grantedFlight s ∧
    (s.sc.resetPending = true → s.mc.flight.isSome = true) ∧
    (∀ p : PortId, s.hp.seq.running = some (.portAbort p) → grantedFlight s = some (.port p))

/-- The refresh account's bounds and relations (R50 to R52, R43). -/
abbrev RefreshSound (s : State) : Prop :=
  s.mc.owed ≤ 7 ∧ (s.mc.lossEpisode = true → s.mc.owed = 7 ∧ s.mc.memSuspect = true) ∧
    (s.mc.state ≠ .ready → s.mc.owed = 0 ∧ s.mc.intervalCount = 0 ∧ s.mc.lossEpisode = false)

/-- Device, transaction in flight and refresh account together: each step needs all three. -/
abbrev ControllerSound (s : State) : Prop := DeviceSound s ∧ FlightSound s ∧ RefreshSound s

/-- Requests and pins are those of the state (R79, R85, R91, R92, R152); held in reset, the pins are quiet
(R177). -/
abbrev Settled (s : State) : Prop := if s.held.isSome then s.pins = {} else settle s = s

end Sys2Proof.Safety
end

