-- ==== Sys2Proof/WellFormed.lean ====
section
/-! DEFINITION. Which commands are well formed: the operands a row's own words ask for. The machine gives every
command a meaning, well formed or not. -/

namespace Sys2Proof

/-- The codes of Table 9-1 (R156). -/
def commandCodes : List Byte :=
  [0x00, 0x10, 0x11, 0x12, 0x13, 0x20, 0x21, 0x22, 0x30, 0x31, 0x32, 0x33, 0x40, 0x41]

/-- Positions whose write is a row of its own: DEV_CTRL, CMD, XEN_SET, XEN_CLR, EVQ_THRESH, WIN_ADDR_LO,
WIN_ADDR_HI, WIN_DATA, CFG_DATA. -/
def ownWriteRows : List (BitVec 6) := [0x04, 0x05, 0x14, 0x15, 0x1E, 0x20, 0x21, 0x22, 0x25]

/-- Positions whose read is a row of its own: SUMMARY, EVQ_POP, WIN_DATA. -/
def ownReadRows : List (BitVec 6) := [0x16, 0x19, 0x22]

/-- The operands are those the row's words ask for. -/
def wellFormed : Instr → Bool
  | .undefinedCommand w => !commandCodes.contains (w.extractLsb' 0 8)
  | .softReset w => w.getLsbD 0
  | .cmdCancel w => w.getLsbD 1 && !w.getLsbD 0
  | .start w => w.getLsbD 0
  | .registerWrite rd wr off _ =>
    (rd || wr) && (rd || !ownWriteRows.contains off) && (wr || !ownReadRows.contains off)
  | .nop _ | .arm _ | .disarm _ | .doze _ | .wake _ | .portOpen _ | .portClose _ | .portAbort _ | .segPost _
  | .segFlush _ | .queueStatus _ | .markRead _ | .memFill _ | .regionCrc _ | .overlap _ | .xenSet _ | .xenClr _
  | .summaryRead | .evqPop | .evqThreshWrite _ | .winAddrLoWrite _ | .winAddrHiWrite _ | .winDataRead
  | .winDataWrite _ | .cfgDataWrite _ | .captureBeat _ _ _ | .replayBeat _ | .heldOffer _ | .tick | .owedRise
  | .linkIdle _ | .eventAge | .writeBurstCompletion | .readBurstCompletion | .wordReadCompletion
  | .wordWriteCompletion | .refreshCompletion | .initStepCompletion | .memFillChunkCompletion
  | .regionCrcChunkCompletion | .arbitrationPoint | .sleepEntry | .softResetApplied | .powerOnReset | .pinReset
  | .resetRelease | .abortExecute | .captureCloseEnd _ | .replayCloseEnd _ => true

end Sys2Proof
end

