-- ==== Sys2Proof/Certificates/Slice0/Obligations.lean ====
section
/-! DEFINITION. The statements for the provers. A statement `exec c s = .next (settle t)` gives the whole next state:
`t` lists every change the rules make, and `SettlingChangesRequestsStopBlocksAndPinsOnly` says what `settle` adds. -/

open Sys2Proof Sys2Proof.Machine Sys2Proof.Safety

/-! ### The machine as a whole -/

/-- A step runs the command at the front of the queue, with the queue's rest. -/
def Obligations.StepRunsTheFrontCommand : Prop :=
  ∀ (c : Instr) (rest : List Instr) (s : State), s.pending = c :: rest → step s = exec c { s with pending := rest }

/-- Every command completes: no fault, no refusal. It leaves the queue alone, and free values are never reused. -/
def Obligations.EveryCommandCompletesAndKeepsTheQueue : Prop :=
  ∀ (c : Instr) (s : State), ∃ t, exec c s = .next t ∧ t.pending = s.pending ∧ s.freeIndex ≤ t.freeIndex

/-- The model's choice (log entry 2): on an empty queue every event of the instant has been processed. The sleep test
is taken when it would enter SLEEP, otherwise the arbitration point when one falls due (R142, R56, R62), and with neither
due one REFCLK period passes: the divider counts it, and at the divisor it returns to 0 and a tick falls due (R174). A
part held in reset stays as it is. -/
def Obligations.EmptyQueueEndsTheInstantOrPassesTime : Prop :=
  ∀ s : State, s.pending = [] →
    let free := s.mc.state = .ready ∧ s.mc.flight = none
    let sleeps := s.mc.sleepRequest = true ∧ free ∧ s.mc.owed = 0
    let point := free ∧ candidates (settlePorts s) ≠ []
    (s.held.isSome = true → step s = .next s) ∧
    (s.held = none → sleeps → step s = exec .sleepEntry s) ∧
    (s.held = none → ¬ sleeps → point → step s = exec .arbitrationPoint s) ∧
    (s.held = none → ¬ sleeps → ¬ point → s.tb.divider + 1 < s.sc.cfg.divisor →
      step s = .next { s with tb := { s.tb with divider := s.tb.divider + 1 } }) ∧
    (s.held = none → ¬ sleeps → ¬ point → s.sc.cfg.divisor ≤ s.tb.divider + 1 →
      step s = .next { s with tb := { s.tb with divider := 0 }, pending := [.tick] })

/-- What `settle` changes after an event: requests, stop blocks whose release is due (R109), and the pins. -/
def Obligations.SettlingChangesRequestsStopBlocksAndPinsOnly : Prop :=
  ∀ (s : State) (p : PortId),
    { settle s with ports := s.ports, pins := s.pins } = s ∧
    { (settle s).port p with request := (s.port p).request, stopBlock := (s.port p).stopBlock } = s.port p ∧
    ((settle s).port p).stopBlock =
      (if (s.port p).stopBlock = .left ∧ (s.port p).xen = true then .clear else (s.port p).stopBlock)

/-- A port's request after every event (R91 on a capture port, R92 on a replay port), and none while an abort of the
port waits (R133). -/
def Obligations.PortRequestRules : Prop :=
  ∀ (s : State) (p : PortId),
    let x := s.port p
    let k := s.pcfg p
    let fill := x.fifo.length
    let free := 64 - x.fifo.length - x.reservation
    let waits := s.hp.seq.running = some (.portAbort p)
    let capture := ¬ waits ∧ (x.state = .active ∨ x.state = .closing) ∧ 1 ≤ fill ∧
      ∃ h t, x.queue = h :: t ∧
        (k.normalWm ≤ fill ∨ h.desc.length - h.progress ≤ fill ∨
          (h.desc.last = true ∧ ∃ e ∈ x.fifo, e.mark = true) ∨ x.idleDeclared = true ∨ x.state = .closing)
    let replay := ¬ waits ∧ x.state = .active ∧
      (x.stopBlock = .clear ∨ (x.stopBlock = .left ∧ x.xen = true)) ∧
      ∃ cur e, x.fetch = some cur ∧ x.queue[cur.pos]? = some e ∧ min k.normalWm (e.desc.length - cur.off) ≤ free
    let request := ((settle s).port p).request
    (k.dir = .capture → capture → request = if k.urgentWm ≤ fill then some .urgent else some .normal) ∧
      (k.dir = .capture → ¬ capture → request = none) ∧
      (k.dir = .replay → replay → request = if k.urgentWm ≤ free then some .urgent else some .normal) ∧
      (k.dir = .replay → ¬ replay → request = none)

/-! ### Posting (R146, R147) and the pins (R79, R85, R152 to R154) -/

/-- R146 and R147: a record is stored at the tail with the next sequence number and the tick count, or refused. -/
def Obligations.PostingStoresOrRefuses : Prop :=
  ∀ (r : Report) (s : State), r.count ≤ 4294967295 →
    (s.eu.queue.length ≤ 31 → post r s = { s with eu := { s.eu with
        queue := s.eu.queue ++ [{ report := r, seqNo := s.eu.seqNo, stamp := s.tb.tickCount }]
        seqNo := s.eu.seqNo + 1 } }) ∧
    (32 ≤ s.eu.queue.length → post r s = { s with eu := { s.eu with
        lostCount := if s.eu.lostCount < 255 then s.eu.lostCount + 1 else s.eu.lostCount
        lost := true
        summary := s.eu.summary ||| 0x80 } })

/-- R152 to R154: after every command, INT_N is low exactly when an enabled SUMMARY bit is set, or EVQ is enabled and
the trigger holds. -/
def Obligations.InterruptFollowsItsConditions : Prop :=
  ∀ (c : Instr) (s t : State), s.held = none → exec c s = .next t → t.held = none →
    (t.pins.intN = false ↔
      (∃ i : Nat, i < 8 ∧ t.eu.summary.getLsbD i = true ∧ t.eu.intEn.getLsbD i = true) ∨
      (t.eu.intEn.getLsbD 8 = true ∧
        (t.eu.thresh ≤ t.eu.queue.length ∨
          (t.eu.age ≠ 0 ∧ ∃ r rest, t.eu.queue = r :: rest ∧ t.eu.age ≤ (t.tb.tickCount - r.stamp).toNat) ∨
          t.eu.lost = true)))

/-- R79 and R85: after every command the part drives READY, or VALID, MARK and data, as the two tables say. -/
def Obligations.LinkPinsFollowTheTables : Prop :=
  ∀ (c : Instr) (s t : State) (p : PortId), s.held = none → exec c s = .next t → t.held = none →
    let x := t.port p
    let k := t.pcfg p
    (k.dir = .capture → t.pins.links.get p =
      { ready := decide ((x.state = .idle ∨ x.state = .active) ∧ (x.fifo.length < 64 ∨ k.flow ≠ .stall)) }) ∧
    (k.dir = .replay → ∀ e rest, x.fifo = e :: rest → x.state = .active ∨ x.state = .closing →
      t.pins.links.get p = { valid := true, mark := e.mark, data := e.word }) ∧
    (k.dir = .replay → x.fifo = [] → x.state = .active → k.flow = .fill →
      t.pins.links.get p = { valid := true, data := k.fillWord }) ∧
    (k.dir = .replay → x.fifo = [] → x.state = .active → k.flow ≠ .fill → t.pins.links.get p = {}) ∧
    (k.dir = .replay → x.fifo = [] → x.state = .closing → t.pins.links.get p = {}) ∧
    (k.dir = .replay → x.state = .closed ∨ x.state = .idle ∨ x.state = .faulted → t.pins.links.get p = {})

/-! ### Commands (Chapters 1 and 9) -/

/-- R157. -/
def Obligations.NopReturnsTheIdentity : Prop :=
  ∀ (high : Byte) (s : State), TakesCommand s →
    exec (.nop high) s = .next (settle (ended .ok { w0 := 0xC31A, w1 := 0x0440, w2 := 0x0002 }
      (started 0x00 (portField high) s)))

/-- R8, R20, R124, R156: a code absent from Table 9-1 gives BAD_CODE; otherwise the first check that fails ends the
command, and a refused command changes nothing but CMD_STATUS, RES0 to RES3 and SUMMARY.CMD. R9: a CMD write that
finds the sequencer BUSY, whatever row sends it, only sets OVERLAP. Every row that writes a register is the register write
of its position (log entries 11 to 13). -/
def Obligations.CommandsTurnedAway : Prop :=
  (∀ (w : Word) (s : State), TakesCommand s → w.extractLsb' 0 8 ∉ commandCodes →
    exec (.undefinedCommand w) s = .next (settle (ended .badCode {}
      (started (w.extractLsb' 0 8) (portOf (w.extractLsb' 8 2)) s)))) ∧
  (∀ (c : Instr) (code high : Byte) (r : Result) (s : State), cmdRow c = some (code, high) → TakesCommand s →
    refusal s code (portField high) = some r →
      exec c s = .next (settle (ended r {} (started code (portField high) s)))) ∧
  (∀ (w : Word) (s : State), Listening s → ¬ SequencerIdle s →
    exec (.overlap w) s = .next (settle { s with hp := { s.hp with seq := { s.hp.seq with overlap := true } } })) ∧
  (∀ (c : Instr) (w : Word) (s : State), hostWriteOf c = some (0x05, w) → Listening s → ¬ SequencerIdle s →
    exec c s = .next (settle { s with hp := { s.hp with seq := { s.hp.seq with overlap := true } } })) ∧
  (∀ (c : Instr) (off : BitVec 6) (w : Word) (s : State), hostWriteOf c = some (off, w) →
    exec c s = exec (.registerWrite false true off w) s)

/-- R35 to R37: no check fails exactly when memory is READY and the configuration is legal. -/
def Obligations.ArmCheckPassesExactlyLegalConfigurations : Prop :=
  ∀ s : State, armCheck s = none ↔ s.mc.state = .ready ∧ LegalCfg s.sc.cfg

/-- R35 to R37: of the checks that fail, the first in the order of the rules is found, and a failing ARM only reports
it. R38: a passing ARM makes the device ARMED, clears XEN and opens every fairness state. R39 and R159: DISARM with every
port CLOSED returns the device to SETUP and opens every fairness state; with any other port state it is refused. -/
def Obligations.ArmAndDisarm : Prop :=
  ∀ (high : Byte) (s : State),
    let arm := started 0x10 (portField high) s
    let disarm := started 0x11 (portField high) s
    let opened : Arbiter := { s.ma with host := .opened, ports := ⟨.opened, .opened, .opened, .opened⟩ }
    (∀ f, armCheck s = some f ↔ FirstFailure s f) ∧
    (Admitted s 0x10 (portField high) → armCheck s = none →
      ∃ t, exec (.arm high) s = .next (settle (ended .ok {}
        { arm with sc := { s.sc with device := .armed }, ma := opened, ports := t })) ∧
      ∀ p, t.get p = { s.port p with xen := false }) ∧
    (Admitted s 0x10 (portField high) → ∀ f, FirstFailure s f →
      exec (.arm high) s = .next (settle (ended .checkFailed
        { w0 := BitVec.ofNat 16 f.code ||| BitVec.ofNat 16 (f.item * 16) ||| BitVec.ofNat 16 (f.first * 256) |||
            BitVec.ofNat 16 (f.second * 1024)
          w1 := BitVec.ofNat 16 f.users.1 ||| BitVec.ofNat 16 (f.users.2.1 * 16) |||
            BitVec.ofNat 16 (f.users.2.2 * 256) } arm))) ∧
    (Admitted s 0x11 (portField high) → AllClosed s →
      exec (.disarm high) s = .next (settle (ended .ok {}
        { disarm with sc := { s.sc with device := .setup }, ma := opened }))) ∧
    (Admitted s 0x11 (portField high) → ¬ AllClosed s →
      exec (.disarm high) s = .next (settle (ended .badState {} disarm)))

/-- R160, R56, R161, R57: DOZE stays BUSY with the sleep request set; the sleep test enters SLEEP, completes DOZE and
enters DOZE once the controller is READY, free and owes nothing; WAKE returns to ARMED and READY. -/
def Obligations.DozeSleepAndWake : Prop :=
  (∀ (high : Byte) (s : State), Admitted s 0x12 (portField high) →
    (AllClosed s ∧ s.hp.win.wbuf = none → exec (.doze high) s = .next (settle (busy .doze
      { started 0x12 (portField high) s with mc := { s.mc with sleepRequest := true } }))) ∧
    (¬ (AllClosed s ∧ s.hp.win.wbuf = none) →
      exec (.doze high) s = .next (settle (ended .badState {} (started 0x12 (portField high) s))))) ∧
  (∀ s : State, s.held = none → s.mc.sleepRequest = true → s.mc.state = .ready → s.mc.flight = none →
    s.mc.owed = 0 → exec .sleepEntry s = .next (settle (ended .ok {}
      { s with
        sc := { s.sc with device := .doze }
        mc := { s.mc with state := .sleep, sleepRequest := false, intervalCount := 0 }
        hp := { s.hp with win := { s.hp.win with
          latch := if s.hp.win.latch = .pending then .empty else s.hp.win.latch
          wbuf := none
          errors := if s.hp.win.wbuf = none then s.hp.win.errors else s.hp.win.errors ||| 0x20 } } }))) ∧
  (∀ s : State, s.held = none →
    ¬ (s.mc.sleepRequest = true ∧ s.mc.state = .ready ∧ s.mc.flight = none ∧ s.mc.owed = 0) →
      exec .sleepEntry s = .next (settle s)) ∧
  (∀ (high : Byte) (s : State), Admitted s 0x13 (portField high) →
    exec (.wake high) s = .next (settle (ended .ok {}
      { started 0x13 (portField high) s with
        sc := { s.sc with device := .armed }
        mc := { s.mc with state := .ready, owed := 0, intervalCount := 0 } })))

/-- R125 and R162. -/
def Obligations.PortOpenMakesAFreshIdlePort : Prop :=
  ∀ (high : Byte) (s : State),
    let p := portField high
    Admitted s 0x20 p → exec (.portOpen high) s = .next (settle (ended .ok {}
      { withPort p { state := .idle, xen := true } (started 0x20 p s) with
        ma := { s.ma with ports := s.ma.ports.set p .opened } }))

/-- R126, R131, R163: PORT_CLOSE on an IDLE or ACTIVE port enters CLOSING, or ends within the write: with CLOSE when
nothing is left to drain, with CLOSE_IDLE on a replay port already declared idle. -/
def Obligations.PortCloseDrainsOrEnds : Prop :=
  ∀ (high : Byte) (s : State),
    let p := portField high
    let x := s.port p
    let k := s.pcfg p
    let st := started 0x21 p s
    let drained := (k.dir = .capture ∧ liveFlight s p = false ∧ (x.fifo = [] ∨ x.queue = [])) ∨
      (k.dir = .replay ∧ x.fifo = [] ∧ x.reservation = 0)
    let silent := k.dir = .replay ∧ x.idleDeclared = true
    Admitted s 0x21 p → x.state ≠ .faulted →
      (drained → exec (.portClose high) s = .next (settle (ended .ok {}
        (shut p .close x.fifo.length (postAll (outcomes p .segShort .close .close x.queue) st))))) ∧
      (¬ drained → silent → exec (.portClose high) s = .next (settle (ended .ok {}
        (shut p .closeIdle x.fifo.length
          (orphanFlight p (postAll (outcomes p .segShort .closeIdle .close x.queue) st)))))) ∧
      (¬ drained → ¬ silent → exec (.portClose high) s = .next (settle (ended .ok { w0 := 3 }
        (withPort p { x with
          state := .closing
          overrun := false
          underrun := false
          idleCount := if x.state = .active then x.idleCount else 0 } st))))

/-- R133, R134, R164: PORT_ABORT gives every descriptor its outcome and closes the port at once, or waits for the
port's transaction in flight. R136: PORT_CLOSE and PORT_ABORT of a FAULTED port close it with count 0. -/
def Obligations.PortAbortAndFaultAcknowledgement : Prop :=
  ∀ (high : Byte) (s : State),
    let p := portField high
    let x := s.port p
    (liveFlight s p = true ↔ ∃ f, s.mc.flight = some f ∧ f.who = .port p ∧ f.orphan = false) ∧
    (Admitted s 0x22 p → x.state ≠ .faulted → liveFlight s p = false →
      exec (.portAbort high) s = .next (settle (ended .ok {}
        (shut p .abort x.fifo.length (postAll (outcomes p .segAborted .hostAbort .abort x.queue)
          (started 0x22 p s)))))) ∧
    (Admitted s 0x22 p → liveFlight s p = true →
      exec (.portAbort high) s = .next (settle (busy (.portAbort p) (started 0x22 p s)))) ∧
    (Admitted s 0x22 p → x.state = .faulted → liveFlight s p = false →
      exec (.portAbort high) s = .next (settle (ended .ok {} (shut p .abort 0 (started 0x22 p s))))) ∧
    (Admitted s 0x21 p → x.state = .faulted →
      exec (.portClose high) s = .next (settle (ended .ok {} (shut p .close 0 (started 0x21 p s)))))

/-- R165: what SEG_POST reads from ARG0 to ARG7, and which of their bits must be 0. -/
def Obligations.SegPostArgumentLayout : Prop :=
  ∀ a : Args,
    let d := segPostDesc a
    let hasG := a.a0.toNat.testBit 12
    let hasR := a.a0.toNat.testBit 13
    d.tag.toNat = a.a0.toNat % 256 ∧
    d.notify = a.a0.toNat.testBit 8 ∧ d.stop = a.a0.toNat.testBit 9 ∧
    d.recycle = a.a0.toNat.testBit 10 ∧ d.last = a.a0.toNat.testBit 11 ∧
    d.start = a.a1.toNat + 65536 * (a.a2.toNat % 64) ∧
    d.length = a.a3.toNat + 65536 * (a.a4.toNat % 64) ∧
    d.guard = (if hasG then some (a.a5.toNat + 65536 * (a.a6.toNat % 64)) else none) ∧
    d.rpt = (if hasR then some (a.a7.toNat % 256) else none) ∧
    (segPostZeros a = true ↔ a.a0.toNat < 16384 ∧ a.a2.toNat < 64 ∧ a.a4.toNat < 64 ∧
      (hasG = true → a.a6.toNat < 64) ∧ (hasR = true → a.a7.toNat < 256))

/-- R166 and R99: SEG_POST is tested for format, range and capacity, in that order; a post that passes is appended, an
IDLE port becomes ACTIVE, and a replay cursor at tail moves onto the new entry. -/
def Obligations.SegPostAppendsOrIsRefused : Prop :=
  ∀ (high : Byte) (s : State),
    let p := portField high
    let x := s.port p
    let k := s.pcfg p
    let st := started 0x30 p s
    let d := segPostDesc s.hp.seq.args
    let format := segPostZeros s.hp.seq.args = true ∧ d.length ≠ 0 ∧ (∀ g, d.guard = some g → g < d.length) ∧
      (∀ r, d.rpt = some r → k.dir = .replay ∧ r ≠ 0)
    let range := d.start + d.length ≤ k.sizeUnits * 1024
    Admitted s 0x30 p →
      (¬ format → exec (.segPost high) s = .next (settle (ended .segFormat {} st))) ∧
      (format → ¬ range → exec (.segPost high) s = .next (settle (ended .segRange {} st))) ∧
      (format → range → 8 ≤ x.queue.length → exec (.segPost high) s = .next (settle (ended .queueFull {} st))) ∧
      (format → range → x.queue.length < 8 →
        exec (.segPost high) s = .next (settle (ended .ok { w0 := BitVec.ofNat 16 (x.queue.length + 1) }
          (withPort p { x with
            state := .active
            idleCount := if x.state = .idle then 0 else x.idleCount
            queue := x.queue ++ [{ desc := d, progress := 0, started := false }]
            fetch := if k.dir = .replay ∧ x.fetch = none then some { pos := x.queue.length, rep := 1, off := 0 }
              else x.fetch } st))))

/-- R122 and R167: SEG_FLUSH cancels, in queue order, every entry but the head on a capture port and every entry not
started on a replay port; a replay cursor on a cancelled entry goes to tail, and an ACTIVE port left empty becomes
IDLE. -/
def Obligations.SegFlushCancelsWhatHasNotStarted : Prop :=
  ∀ (high : Byte) (s : State),
    let p := portField high
    let x := s.port p
    let st := started 0x31 p s
    let cancelled (l : List QEntry) : List Report := l.map fun e => ⟨.segCancelled, .port p, e.desc.tag, .flush, 0⟩
    Admitted s 0x31 p →
      ((s.pcfg p).dir = .capture → (x.state = .active → x.queue ≠ []) →
        exec (.segFlush high) s = .next (settle (ended .ok { w0 := BitVec.ofNat 16 (x.queue.length - 1) }
          (withPort p { x with queue := x.queue.take 1 } (postAll (cancelled (x.queue.drop 1)) st))))) ∧
      ((s.pcfg p).dir = .replay →
        let kept := x.queue.filter fun e => e.started
        let gone := x.queue.filter fun e => !e.started
        let y := { x with
          queue := kept
          fetch := match x.fetch with
            | some c => (match x.queue[c.pos]? with
              | some e => if e.started then some c else none
              | none => some c)
            | none => none }
        exec (.segFlush high) s = .next (settle (ended .ok { w0 := BitVec.ofNat 16 gone.length }
          (withPort p
            (if x.state = .active ∧ kept = [] then
              { y with state := .idle, idleCount := 0, idleDeclared := false, underrun := false } else y)
            (postAll (cancelled gone) st)))))

/-- R168: QUEUE_STATUS changes nothing but the results of the command, which Table 9-3 lays out. -/
def Obligations.QueueStatusReports : Prop :=
  ∀ (high : Byte) (s : State),
    let p := portField high
    let x := s.port p
    let open' := x.state = .idle ∨ x.state = .active ∨ x.state = .closing
    Admitted s 0x32 p → x.queue.length ≤ 8 →
      ∃ q : Words4, exec (.queueStatus high) s = .next (settle (ended .ok q (started 0x32 p s))) ∧
        (¬ open' → q = { w0 := BitVec.ofNat 16 x.state.code }) ∧
        (open' →
          bits q.w0 0 3 = x.state.code ∧ bits q.w0 3 4 = x.queue.length ∧ flag q.w0 7 = x.xen ∧
          bits q.w0 10 6 = 0 ∧
          bits q.w1 0 8 = (match x.queue with | [] => 0 | h :: _ => h.desc.tag.toNat) ∧
          q.w2 = (match x.queue with | [] => 0 | h :: _ => BitVec.ofNat 16 h.progress) ∧
          q.w3 = (match x.queue with | [] => 0 | h :: _ => BitVec.ofNat 16 (h.progress / 65536))) ∧
        (open' → (s.pcfg p).dir = .capture →
          flag q.w0 8 = false ∧ flag q.w0 9 = !x.queue.isEmpty ∧ bits q.w1 8 8 = bits q.w1 0 8) ∧
        (open' → (s.pcfg p).dir = .replay → flag q.w0 8 = (x.stopBlock != .clear) ∧
          (∀ c e, x.fetch = some c → x.queue[c.pos]? = some e →
            flag q.w0 9 = true ∧ bits q.w1 8 8 = e.desc.tag.toNat) ∧
          (x.fetch = none → flag q.w0 9 = false ∧ bits q.w1 8 8 = 0))

/-- R138 and R169: MARK_READ removes and returns the oldest entry, with the overwrite count, which becomes 0; an empty
log gives EMPTY; a replay port gives BAD_STATE. -/
def Obligations.MarkReadReturnsTheOldest : Prop :=
  ∀ (high : Byte) (s : State),
    let p := portField high
    let x := s.port p
    let st := started 0x33 p s
    Admitted s 0x33 p →
      ((s.pcfg p).dir = .replay → exec (.markRead high) s = .next (settle (ended .badState {} st))) ∧
      ((s.pcfg p).dir = .capture → x.marks = [] → exec (.markRead high) s = .next (settle (ended .empty {} st))) ∧
      (∀ m rest, (s.pcfg p).dir = .capture → x.marks = m :: rest → m.index < 4194304 → m.addr < 4194304 →
        x.overwrites ≤ 255 → exec (.markRead high) s = .next (settle (ended .ok
          { w0 := BitVec.ofNat 16 (m.tag.toNat + 256 * x.overwrites)
            w1 := BitVec.ofNat 16 m.index
            w2 := BitVec.ofNat 16 m.addr
            w3 := BitVec.ofNat 16 (m.index / 65536 + 256 * (m.addr / 65536)) }
          (withPort p { x with marks := rest, overwrites := 0 } st))))

/-- R170 to R172: a memory command whose arguments are legal, and for MEM_FILL whose range meets no region of an open
capture port, discards the prefetch latch and stays BUSY; otherwise it is refused with BAD_ARG or PROTECTED. -/
def Obligations.MemoryCommandsAcceptedOrRefused : Prop :=
  ∀ (high : Byte) (s : State),
    let a := s.hp.seq.args
    let start := a.a1.toNat + 65536 * (a.a2.toNat % 64)
    let count := a.a3.toNat + 65536 * (a.a4.toNat % 128)
    let legal := a.a2.toNat < 64 ∧ a.a4.toNat < 128 ∧ count ≠ 0 ∧ start + count ≤ s.sc.cfg.memorySize
    let meets := ∃ p : PortId, (s.pcfg p).dir = .capture ∧ (s.port p).state ≠ .closed ∧
      start < (s.pcfg p).regionEnd ∧ (s.pcfg p).regionFirst < start + count
    (Admitted s 0x40 (portField high) →
      let st := started 0x40 (portField high) s
      (¬ legal → exec (.memFill high) s = .next (settle (ended .badArg {} st))) ∧
      (legal → meets → exec (.memFill high) s = .next (settle (ended .protectedRange {} st))) ∧
      (legal → ¬ meets → exec (.memFill high) s = .next (settle (unlatched (busy
        (.memFill { start := start, count := count, covered := 0, cancel := false } a.a0) st))))) ∧
    (Admitted s 0x41 (portField high) →
      let st := started 0x41 (portField high) s
      (¬ legal → exec (.regionCrc high) s = .next (settle (ended .badArg {} st))) ∧
      (legal → exec (.regionCrc high) s = .next (settle (unlatched (busy
        (.regionCrc { start := start, count := count, covered := 0, cancel := false } 0xFFFF 0) st)))))

/-! ### Other host accesses (Chapter 1) -/

/-- R178 and R180: a soft reset is applied at once when no transaction is in flight, and otherwise only sets
RESET_PENDING; one already pending is not requested again. The completion of the transaction in flight is processed in
full, as with none pending, and then the reset is applied as the last step of the same event. SOFT_RESET_APPLIED sent
alone applies a pending reset once nothing is in flight (the model's choice, log entry 10). -/
def Obligations.SoftResetAppliedOrDeferred : Prop :=
  (∀ (w : Word) (s : State), s.held = none →
    (w.getLsbD 0 = true → s.sc.resetPending = false → s.mc.flight = none →
      exec (.softReset w) s = .next (settle (softResetState s))) ∧
    (w.getLsbD 0 = true → s.sc.resetPending = false → s.mc.flight ≠ none →
      exec (.softReset w) s = .next (settle { s with sc := { s.sc with resetPending := true } })) ∧
    (w.getLsbD 0 = true → s.sc.resetPending = true → exec (.softReset w) s = .next (settle s)) ∧
    (s.sc.resetPending = true → s.mc.flight = none →
      exec .softResetApplied s = .next (settle (softResetState s))) ∧
    (¬ (s.sc.resetPending = true ∧ s.mc.flight = none) → exec .softResetApplied s = .next (settle s))) ∧
  (∀ (c : Instr) (s : State) (f : Flight), s.held = none → s.sc.resetPending = true → s.mc.flight = some f →
    Completes c f → ∃ t, exec c { s with sc := { s.sc with resetPending := false } } = .next t ∧
      exec c s = .next (settle (softResetState t)))

/-- R10: CMD_CANCEL ends a memory command at once with CANCELLED when its chunk is not granted, sets its
cancel-requested flag when it is, and does nothing at any other time. A running memory command has a job; its chunk is granted while a burst of HOST's
is in flight (R10, R47). -/
def Obligations.CmdCancelEndsMemoryCommands : Prop :=
  (∀ s : State,
    (∀ j, jobOf s = some j ↔ (∃ pattern, s.hp.seq.running = some (.memFill j pattern)) ∨
      ∃ crc errors, s.hp.seq.running = some (.regionCrc j crc errors)) ∧
    (chunkGranted s = true ↔
      ∃ f, s.mc.flight = some f ∧ f.who = .host ∧ (f.kind = .writeBurst ∨ f.kind = .readBurst))) ∧
  ∀ (w : Word) (s : State) (j : Job), s.held = none → w.getLsbD 1 = true → w.getLsbD 0 = false →
    (∀ pattern, s.hp.seq.running = some (.memFill j pattern) → j.cancel = false →
      (chunkGranted s = false → exec (.cmdCancel w) s = .next (settle (ended .cancelled
        { w2 := BitVec.ofNat 16 j.covered, w3 := BitVec.ofNat 16 (j.covered / 65536) } s))) ∧
      (chunkGranted s = true →
        exec (.cmdCancel w) s = .next (settle (busy (.memFill { j with cancel := true } pattern) s)))) ∧
    (∀ crc errors, s.hp.seq.running = some (.regionCrc j crc errors) → j.cancel = false →
      (chunkGranted s = false → exec (.cmdCancel w) s = .next (settle (ended .cancelled
        { w0 := crc, w1 := BitVec.ofNat 16 errors, w2 := BitVec.ofNat 16 j.covered,
          w3 := BitVec.ofNat 16 (j.covered / 65536) } s))) ∧
      (chunkGranted s = true →
        exec (.cmdCancel w) s = .next (settle (busy (.regionCrc { j with cancel := true } crc errors) s)))) ∧
    ((jobOf s).all (·.cancel) = true → exec (.cmdCancel w) s = .next (settle s))

/-- R4: XEN_SET sets the enable of each IDLE or ACTIVE port named, XEN_CLR clears that of each port named. -/
def Obligations.XenSetAndClr : Prop :=
  ∀ (w : Word) (s : State), Listening s →
    let named (p : PortId) : Prop := w.getLsbD (portIndex p) = true
    (∃ t, exec (.xenSet w) s = .next (settle { s with ports := t }) ∧ ∀ p : PortId,
      (named p ∧ ((s.port p).state = .idle ∨ (s.port p).state = .active) → t.get p = { s.port p with xen := true }) ∧
      (¬ (named p ∧ ((s.port p).state = .idle ∨ (s.port p).state = .active)) → t.get p = s.port p)) ∧
    (∃ t, exec (.xenClr w) s = .next (settle { s with ports := t }) ∧ ∀ p : PortId,
      (named p → t.get p = { s.port p with xen := false }) ∧ (¬ named p → t.get p = s.port p))

/-- R151: a SUMMARY read returns the eight bits and clears them. R148, R149 and R144: a pop
returns the number of records, removes the oldest into EVW0 to EVW3, and reports lost records at the tail; a pop of an
empty queue returns 0 and changes nothing. R144 and R145: the codes of kinds, sources and details. -/
def Obligations.SummaryReadAndEvqPop : Prop :=
  ([EvKind.segDone, .segShort, .segAborted, .segCancelled, .guard, .overrun, .underrun, .linkIdle, .parity, .portClosed,
    .portFault, .refreshLost, .evqLost, .memReady].map EvKind.code = (List.range 14).map (· + 1)) ∧
  ([Source.port .p0, .port .p1, .port .p2, .port .p3, .mem, .host, .sys].map Source.code = List.range 7) ∧
  ([Detail.noDetail, .markEnd, .close, .closeIdle, .hostAbort, .fault, .flush, .abort, .overrun, .parity].map
    Detail.code = List.range 10) ∧
  ∀ s : State, s.held = none →
    exec .summaryRead s = .next (settle { s with
      hp := { s.hp with dataBus := BitVec.ofNat 16 s.eu.summary.toNat }
      eu := { s.eu with summary := 0 } }) ∧
    (s.eu.queue = [] → exec .evqPop s = .next (settle { s with hp := { s.hp with dataBus := 0 } })) ∧
    (∀ r rest, s.eu.queue = r :: rest →
      let popped : EventUnit := { s.eu with
        queue := rest
        evw :=
          { w0 := BitVec.ofNat 16 r.report.kind.code ||| BitVec.ofNat 16 (r.report.source.code * 16) |||
              BitVec.ofNat 16 (r.seqNo.toNat * 256)
            w1 := BitVec.ofNat 16 r.report.tag.toNat ||| BitVec.ofNat 16 (r.report.detail.code * 256)
            w2 := BitVec.ofNat 16 r.report.count
            w3 := BitVec.ofNat 16 (r.report.count / 65536) } }
      let bus := { s.hp with dataBus := BitVec.ofNat 16 (rest.length + 1) }
      (s.eu.lost = false → exec .evqPop s = .next (settle { s with hp := bus, eu := popped })) ∧
      (s.eu.lost = true → s.eu.lostCount ≤ 255 → exec .evqPop s = .next (settle { s with
        hp := bus
        eu := { popped with
          queue := rest ++ [{
            report := { kind := .evqLost, source := .sys, tag := 0, detail := .noDetail, count := s.eu.lostCount }
            seqNo := s.eu.seqNo
            stamp := s.tb.tickCount }]
          seqNo := s.eu.seqNo + 1
          lostCount := 0
          lost := false } })))

/-- R5, R7, R16, R17, R192: writes of the registers that store their bits, and of the sticky error bits. -/
def Obligations.StoredRegisterWrites : Prop :=
  ∀ (w : Word) (s : State), Listening s →
    let write (off : BitVec 6) := exec (.registerWrite false true off w) s
    (∀ n : Nat, n < 8 → write (BitVec.ofNat 6 (6 + n)) = .next (settle { s with hp := { s.hp with seq :=
      { s.hp.seq with args := s.hp.seq.args.set n w } } })) ∧
    write 0x17 = .next (settle { s with eu := { s.eu with intEn := BitVec.ofNat 9 w.toNat } }) ∧
    exec (.evqThreshWrite w) s = .next (settle { s with eu := { s.eu with
      thresh := max 1 (min 32 (w.toNat % 64)) } }) ∧
    write 0x1F = .next (settle { s with eu := { s.eu with age := w.toNat % 256 } }) ∧
    write 0x24 = .next (settle { s with hp := { s.hp with cfgIndex := BitVec.ofNat 6 w.toNat } }) ∧
    write 0x23 = .next (settle { s with hp := { s.hp with win := { s.hp.win with
      errors := s.hp.win.errors &&& ~~~ BitVec.ofNat 7 (w.toNat / 256) } } })

/-- R12 and R13: writes of the window address replace its bits and discard the latch; a WIN_ADDR_HI write then starts
a prefetch, or sets the error bit of the first condition that fails. -/
def Obligations.WinAddrWrites : Prop :=
  ∀ (w : Word) (s : State), Listening s →
    let at' (a : Nat) : State := unlatched
      { s with hp := { s.hp with win := { s.hp.win with addr := BitVec.ofNat 22 a } } }
    let fails (b : BitVec 7) (t : State) : State :=
      { t with hp := { t.hp with win := { t.hp.win with errors := t.hp.win.errors ||| b } } }
    let lo := s.hp.win.addr.toNat / 65536 * 65536 + w.toNat
    let hi := w.toNat % 64 * 65536 + s.hp.win.addr.toNat % 65536
    exec (.winAddrLoWrite w) s = .next (settle (at' lo)) ∧
    (s.mc.state ≠ .ready → exec (.winAddrHiWrite w) s = .next (settle (fails 0x20 (at' hi)))) ∧
    (s.mc.state = .ready → jobOf s ≠ none → exec (.winAddrHiWrite w) s = .next (settle (fails 0x40 (at' hi)))) ∧
    (s.mc.state = .ready → jobOf s = none → s.sc.cfg.memorySize ≤ hi →
      exec (.winAddrHiWrite w) s = .next (settle (fails 0x01 (at' hi)))) ∧
    (s.mc.state = .ready → jobOf s = none → hi < s.sc.cfg.memorySize →
      exec (.winAddrHiWrite w) s = .next (settle
        { at' hi with hp := { s.hp with win := { s.hp.win with addr := BitVec.ofNat 22 hi, latch := .pending } } }))

/-- R14: a WIN_DATA read returns a READY latch's word, advances WIN_ADDR and starts the next prefetch if it may;
otherwise it returns FFFFH and sets UNDERFLOW. -/
def Obligations.WinDataRead : Prop :=
  ∀ s : State, s.held = none →
    let next := (s.hp.win.addr.toNat + 1) % 4194304
    let after (w : Word) (l : Latch) : State := { s with hp := { s.hp with
      dataBus := w
      win := { s.hp.win with addr := BitVec.ofNat 22 next, latch := l } } }
    (∀ w, s.hp.win.latch = .ready w → s.mc.state = .ready → jobOf s = none → next < s.sc.cfg.memorySize →
      exec .winDataRead s = .next (settle (after w .pending))) ∧
    (∀ w, s.hp.win.latch = .ready w → ¬ (s.mc.state = .ready ∧ jobOf s = none ∧ next < s.sc.cfg.memorySize) →
      exec .winDataRead s = .next (settle (after w .empty))) ∧
    (s.hp.win.latch = .empty ∨ s.hp.win.latch = .pending → exec .winDataRead s = .next (settle { s with hp :=
      { s.hp with dataBus := 0xFFFF, win := { s.hp.win with errors := s.hp.win.errors ||| 0x08 } } }))

/-- R15: a WIN_DATA write is tested in the order of the table; the first failure sets its error bit and drops the word;
a word that passes is buffered with its address, WIN_ADDR advances and the latch is discarded. -/
def Obligations.WinDataWrite : Prop :=
  ∀ (w : Word) (s : State), Listening s →
    let a := s.hp.win.addr.toNat
    let fails (b : BitVec 7) : State :=
      { s with hp := { s.hp with win := { s.hp.win with errors := s.hp.win.errors ||| b } } }
    let inOpenCapture := ∃ p : PortId, (s.pcfg p).dir = .capture ∧ (s.port p).state ≠ .closed ∧
      (s.pcfg p).baseUnits * 1024 ≤ a ∧ a < ((s.pcfg p).baseUnits + (s.pcfg p).sizeUnits) * 1024
    (s.mc.state ≠ .ready → exec (.winDataWrite w) s = .next (settle (fails 0x20))) ∧
    (s.mc.state = .ready → jobOf s ≠ none → exec (.winDataWrite w) s = .next (settle (fails 0x40))) ∧
    (s.mc.state = .ready → jobOf s = none → s.sc.cfg.memorySize ≤ a →
      exec (.winDataWrite w) s = .next (settle (fails 0x01))) ∧
    (s.mc.state = .ready → jobOf s = none → a < s.sc.cfg.memorySize → inOpenCapture →
      exec (.winDataWrite w) s = .next (settle (fails 0x02))) ∧
    (s.mc.state = .ready → jobOf s = none → a < s.sc.cfg.memorySize → ¬ inOpenCapture → s.hp.win.wbuf ≠ none →
      exec (.winDataWrite w) s = .next (settle (fails 0x04))) ∧
    (s.mc.state = .ready → jobOf s = none → a < s.sc.cfg.memorySize → ¬ inOpenCapture → s.hp.win.wbuf = none →
      exec (.winDataWrite w) s = .next (settle (unlatched { s with hp := { s.hp with win := { s.hp.win with
        wbuf := some { word := w, addr := s.hp.win.addr }
        addr := BitVec.ofNat 22 ((a + 1) % 4194304) } } })))

/-- R18: a CFG_DATA write is refused, setting CFG_LOCKED, or accepted, clearing it; an accepted write restarts the
divider when it is to TICK_DIV and opens every fairness state when it disables fairness. -/
def Obligations.CfgDataWriteRefusedOrAccepted : Prop :=
  ∀ (w : Word) (s : State), Listening s →
    let i := s.hp.cfgIndex.toNat
    let refused := s.sc.device ≠ .setup ∨ (i = 0 ∧ s.mc.state = .init)
    (refused → exec (.cfgDataWrite w) s = .next (settle { s with hp := { s.hp with cfgLocked := true } })) ∧
    (¬ refused → ¬ (i = 1 ∧ w.getLsbD 0 = true) → exec (.cfgDataWrite w) s = .next (settle { s with
      hp := { s.hp with cfgLocked := false }
      sc := { s.sc with cfg := s.sc.cfg.store i w }
      tb := if i = 3 then { s.tb with divider := 0 } else s.tb
      ma := if i = 4 ∧ w.getLsbD 15 = false then
          { s.ma with host := .opened, ports := ⟨.opened, .opened, .opened, .opened⟩ } else s.ma }))

/-- R23 and R17: after a write of configuration word `i`, index `i` reads back the bits written to its fields and 0
elsewhere, and every other index reads as before. Table 2-1, R24, R27, R30, R31: the fields of the words, and the sizes,
policies and regions they stand for. -/
def Obligations.ConfigurationWordsReadBack : Prop :=
  (∀ c : Cfg,
    c.memorySize = (match c.memGeom.toNat % 4 with | 0 => 1048576 | 1 => 2097152 | 2 => 4194304 | _ => 0) ∧
    c.divisor = (if c.tickDiv = 0 then 65536 else c.tickDiv.toNat) ∧
    c.fairness = c.arbCtrl.getLsbD 15) ∧
  (∀ k : PortCfg,
    k.present = k.pcfg.getLsbD 0 ∧ (k.dir = .replay ↔ k.pcfg.getLsbD 1 = true) ∧
    (k.pcfg.toNat / 2 % 8 = 0 → k.flow = .drop) ∧ (k.pcfg.toNat / 2 % 8 = 2 → k.flow = .stall) ∧
    (k.pcfg.toNat / 2 % 8 = 4 → k.flow = .fault) ∧ (k.pcfg.toNat / 2 % 8 = 1 → k.flow = .fill) ∧
    (k.pcfg.toNat / 2 % 8 = 3 → k.flow = .hold) ∧
    k.parityFault = k.pcfg.getLsbD 4 ∧ k.burstCode = k.pcfg.toNat / 32 % 8 ∧
    k.baseUnits = k.regionBase.toNat % 4096 ∧ k.sizeUnits = k.regionSize.toNat % 8192 ∧
    k.regionFirst = k.baseUnits * 1024 ∧ k.regionEnd = (k.baseUnits + k.sizeUnits) * 1024 ∧
    k.normalWm = k.wm.toNat % 64 ∧ k.urgentWm = k.wm.toNat / 256 % 128 ∧
    k.normalLevel = k.levels.toNat % 32 ∧ k.urgentLevel = k.levels.toNat / 256 % 32 ∧
    k.idleTicks = k.linkIdle.toNat % 256) ∧
  ∀ (s : State) (i j : BitVec 6) (w : Word), i ≠ 1 →
    let look (c : Cfg) (n : BitVec 6) : Word :=
      cfgWord { s with sc := { s.sc with cfg := c }, hp := { s.hp with cfgIndex := n } }
    look (s.sc.cfg.store i.toNat w) i = w &&& fieldMask i.toNat ∧
      (j ≠ i → look (s.sc.cfg.store i.toNat w) j = look s.sc.cfg j)

/-- R44: START from OFF or READY enters INIT; from READY the refresh account restarts, what the window has not been
granted is dropped, a MEM_FILL or REGION_CRC without a chunk in flight ends with NOT_AWAKE and its progress, and
PRECHARGE_ALL waits for a transaction in flight. In INIT it is ignored. -/
def Obligations.StartBeginsInitialisation : Prop :=
  ∀ (w : Word) (s : State), Listening s → s.sc.device = .setup → s.hp.cfgIndex = 1 → w.getLsbD 0 = true →
    let st : State := { s with hp := { s.hp with cfgLocked := false } }
    let n := max 2 (bits s.sc.cfg.memGeom 4 4)
    let pos : InitPos := .step n (flag s.sc.cfg.memGeom 8) 0
    let pre : Flight := { kind := .prechargeAll, who := .controller }
    let reading := s.mc.flight.any fun f => f.kind == .wordRead && !f.orphan
    let writing := s.mc.flight.any fun f => f.kind == .wordWrite
    let win : Window := { s.hp.win with
      latch := if s.hp.win.latch = .pending ∧ reading = false then .empty else s.hp.win.latch
      wbuf := if writing then s.hp.win.wbuf else none
      errors := if s.hp.win.wbuf = none ∨ writing = true then s.hp.win.errors else s.hp.win.errors ||| 0x20 }
    let restarted : State := { st with
      hp := { st.hp with win := win }
      mc := { s.mc with
        state := .init
        owed := 0
        intervalCount := 0
        lossEpisode := false
        init := if s.mc.flight.isSome then .awaiting else pos
        flight := if s.mc.flight.isSome then s.mc.flight else some pre } }
    (s.mc.state = .off → exec (.start w) s = .next (settle
      { st with mc := { s.mc with state := .init, init := pos, flight := some pre } })) ∧
    (s.mc.state = .init → exec (.start w) s = .next (settle st)) ∧
    (s.mc.state = .ready → jobOf s = none ∨ chunkGranted s = true →
      exec (.start w) s = .next (settle restarted)) ∧
    (s.mc.state = .ready → chunkGranted s = false → ∀ j pattern, s.hp.seq.running = some (.memFill j pattern) →
      exec (.start w) s = .next (settle (ended .notAwake
        { w2 := BitVec.ofNat 16 j.covered, w3 := BitVec.ofNat 16 (j.covered / 65536) } restarted))) ∧
    (s.mc.state = .ready → chunkGranted s = false → ∀ j crc errors, s.hp.seq.running = some (.regionCrc j crc errors) →
      exec (.start w) s = .next (settle (ended .notAwake
        { w0 := crc, w1 := BitVec.ofNat 16 errors, w2 := BitVec.ofNat 16 j.covered,
          w3 := BitVec.ofNat 16 (j.covered / 65536) } restarted)))

/-- R1 and R179: writes to read-only, unlisted and read-with-effect positions are ignored; so is every host write but
DEV_CTRL's while RESET_PENDING is shown. An access with both strobes has no effect and drives 0000H; with neither strobe
there is no access (log entry 13). -/
def Obligations.IgnoredAccesses : Prop :=
  ∀ s : State, s.held = none → Settled s →
    (∀ (off : BitVec 6) (w : Word),
      off.toNat ≤ 0x03 ∨ (0x0E ≤ off.toNat ∧ off.toNat ≤ 0x13) ∨ off.toNat = 0x16 ∨
        (0x18 ≤ off.toNat ∧ off.toNat ≤ 0x1D) ∨ 0x26 ≤ off.toNat →
      exec (.registerWrite false true off w) s = .next s) ∧
    (∀ (c : Instr) (off : BitVec 6) (w : Word), hostWriteOf c = some (off, w) → s.sc.resetPending = true →
      off ≠ 0x04 → exec c s = .next s) ∧
    (∀ (off : BitVec 6) (w : Word), exec (.registerWrite true true off w) s =
      .next { s with hp := { s.hp with dataBus := 0 } }) ∧
    (∀ (off : BitVec 6) (w : Word), exec (.registerWrite false false off w) s = .next s)

/-- R1 and R2: a read of a position whose read has no effect drives its value and changes nothing else; the value of
each such position is laid out as section 1.2 says, and CFG_DATA returns the word that CFG_INDEX selects (R17, R25). A
read of XEN_SET or XEN_CLR is the model's choice, log entry 14; the positions read with an effect are the rows of their
own. -/
def Obligations.PlainReads : Prop :=
  ([Device.setup, .armed, .doze].map Device.code = [0, 1, 2]) ∧
  ([McState.off, .init, .ready, .sleep].map McState.code = [0, 1, 2, 3]) ∧
  ([ResetCause.power, .pin, .soft].map ResetCause.code = [1, 2, 3]) ∧
  ([PState.closed, .idle, .active, .closing, .faulted].map PState.code = [0, 1, 2, 3, 4]) ∧
  ([Result.ok, .empty, .badCode, .badPort, .badState, .queueFull, .segRange, .segFormat, .protectedRange, .notAwake,
    .checkFailed, .cancelled, .badArg].map Result.code = List.range 13) ∧
  ∀ (s : State) (w : Word), s.held = none → Settled s →
    (∀ off : BitVec 6, off ∉ [(0x14 : BitVec 6), 0x15, 0x16, 0x19, 0x22] →
      exec (.registerWrite true false off w) s = .next { s with hp := { s.hp with dataBus := readValue s off } }) ∧
    (∀ off : BitVec 6, off = 0x14 ∨ off = 0x15 → bits (readValue s off) 4 12 = 0 ∧
      exec (.registerWrite true false off w) s =
        .next { s with hp := { s.hp with dataBus := readValue s off }, freeIndex := s.freeIndex + 1 }) ∧
    exec (.registerWrite true false 0x16 w) s = exec .summaryRead s ∧
    exec (.registerWrite true false 0x19 w) s = exec .evqPop s ∧
    exec (.registerWrite true false 0x22 w) s = exec .winDataRead s ∧
    readValue s 0x00 = 0xC31A ∧ readValue s 0x01 = 0x0440 ∧ readValue s 0x02 = 0x0002 ∧
    (∀ d, d = readValue s 0x03 → bits d 0 2 = s.sc.device.code ∧ bits d 2 2 = s.mc.state.code ∧
      flag d 4 = s.mc.memSuspect ∧ flag d 5 = s.sc.resetPending ∧ flag d 6 = s.hp.cfgLocked ∧ flag d 7 = false ∧
      bits d 8 2 = s.sc.resetCause.code ∧ bits d 10 6 = 0) ∧
    (readValue s 0x06 = s.hp.seq.args.a0 ∧ readValue s 0x07 = s.hp.seq.args.a1 ∧ readValue s 0x08 = s.hp.seq.args.a2 ∧
      readValue s 0x09 = s.hp.seq.args.a3 ∧ readValue s 0x0A = s.hp.seq.args.a4 ∧ readValue s 0x0B = s.hp.seq.args.a5 ∧
      readValue s 0x0C = s.hp.seq.args.a6 ∧ readValue s 0x0D = s.hp.seq.args.a7) ∧
    (∀ d, d = readValue s 0x0E → flag d 0 = s.hp.seq.running.isSome ∧ flag d 1 = s.hp.seq.done ∧
      flag d 2 = s.hp.seq.overlap ∧ flag d 3 = false ∧ bits d 4 4 = s.hp.seq.result.code ∧ bits d 8 8 = 0) ∧
    (readValue s 0x0F = s.hp.seq.res.w0 ∧ readValue s 0x10 = s.hp.seq.res.w1 ∧ readValue s 0x11 = s.hp.seq.res.w2 ∧
      readValue s 0x12 = s.hp.seq.res.w3) ∧
    (readValue s 0x17).toNat = s.eu.intEn.toNat ∧
    (∀ d, d = readValue s 0x18 → s.eu.queue.length ≤ 32 → s.eu.lostCount ≤ 255 →
      bits d 0 6 = s.eu.queue.length ∧ flag d 6 = s.eu.lost ∧ flag d 7 = false ∧ bits d 8 8 = s.eu.lostCount) ∧
    (readValue s 0x1A = s.eu.evw.w0 ∧ readValue s 0x1B = s.eu.evw.w1 ∧ readValue s 0x1C = s.eu.evw.w2 ∧
      readValue s 0x1D = s.eu.evw.w3) ∧
    readValue s 0x1E = BitVec.ofNat 16 s.eu.thresh ∧ readValue s 0x1F = BitVec.ofNat 16 s.eu.age ∧
    (readValue s 0x20).toNat = s.hp.win.addr.toNat % 65536 ∧ (readValue s 0x21).toNat = s.hp.win.addr.toNat / 65536 ∧
    (∀ d, d = readValue s 0x23 → (flag d 0 = true ↔ ∃ v, s.hp.win.latch = .ready v) ∧
      flag d 1 = s.hp.win.wbuf.isSome ∧ bits d 2 6 = 0 ∧ bits d 8 7 = s.hp.win.errors.toNat ∧ flag d 15 = false) ∧
    (readValue s 0x24).toNat = s.hp.cfgIndex.toNat ∧
    (∀ i, i = s.hp.cfgIndex.toNat →
      (i = 0 → readValue s 0x25 = s.sc.cfg.memGeom) ∧
      (i = 1 → readValue s 0x25 = BitVec.ofNat 16 s.mc.state.code) ∧
      (i = 2 → readValue s 0x25 = s.sc.cfg.refresh) ∧
      (i = 3 → readValue s 0x25 = s.sc.cfg.tickDiv) ∧
      (i = 4 → readValue s 0x25 = s.sc.cfg.arbCtrl) ∧
      (∀ p : PortId,
        (i = 8 + 8 * portIndex p → readValue s 0x25 = (s.pcfg p).pcfg) ∧
        (i = 9 + 8 * portIndex p → readValue s 0x25 = (s.pcfg p).regionBase) ∧
        (i = 10 + 8 * portIndex p → readValue s 0x25 = (s.pcfg p).regionSize) ∧
        (i = 11 + 8 * portIndex p → readValue s 0x25 = (s.pcfg p).wm) ∧
        (i = 12 + 8 * portIndex p → readValue s 0x25 = (s.pcfg p).levels) ∧
        (i = 13 + 8 * portIndex p → readValue s 0x25 = (s.pcfg p).linkIdle) ∧
        (i = 14 + 8 * portIndex p → readValue s 0x25 = (s.pcfg p).fillWord)) ∧
      (fieldMask i = 0 ∧ i ≠ 1 → readValue s 0x25 = 0)) ∧
    (∀ p d, (s.port p).queue.length ≤ 8 → (s.port p).fifo.length ≤ 64 →
      d = readValue s (BitVec.ofNat 6 (0x28 + portIndex p)) → bits d 0 3 = (s.port p).state.code ∧
      bits d 3 4 = (s.port p).queue.length ∧ bits d 7 7 = (s.port p).fifo.length ∧
      flag d 14 = (s.port p).idleDeclared ∧ flag d 15 = false) ∧
    (∀ p : PortId, flag (readValue s 0x13) (portIndex p) = (s.port p).xen ∧
      readValue s (BitVec.ofNat 6 (0x2C + portIndex p)) = BitVec.ofNat 16 (s.port p).drop ∧
      readValue s (BitVec.ofNat 6 (0x30 + portIndex p)) = BitVec.ofNat 16 (s.port p).fill) ∧
    bits (readValue s 0x13) 4 12 = 0 ∧
    readValue s 0x26 = s.tb.tickCount ∧
    (∀ off : BitVec 6, off.toNat = 0x04 ∨ off.toNat = 0x05 ∨ off.toNat = 0x27 ∨ 0x34 ≤ off.toNat →
      readValue s off = 0)

/-! ### Links (Chapter 5) -/

/-- R80, R81, R83, R84, R135: a beat on an open capture port is accepted while the fill is below 64; at 64 it is
discarded and counted under DROP and faults the port under FAULT. R82: under STALL a held offer at fill 64 starts an
overrun episode; any other held offer has no effect (R76). R75, R79, R126: while the port holds READY low no beat crosses,
and the partner's beat is a held offer; one on a port of the other direction has no effect (log entry 5). -/
def Obligations.CaptureLinkEvents : Prop :=
  (∀ (p : PortId) (w : Word) (mark : Bool) (s : State), s.held = none → (s.pcfg p).dir = .replay →
    exec (.captureBeat p w mark) s = .next (settle s)) ∧
  ∀ (p : PortId) (w : Word) (mark : Bool) (s : State), s.held = none → (s.pcfg p).dir = .capture →
    let x := s.port p
    let working := x.state = .idle ∨ x.state = .active
    let tag : Byte := match x.queue with | [] => 0 | h :: _ => h.desc.tag
    let overrun := post ⟨.overrun, .port p, tag, .noDetail, 0⟩ s
    let drop := if x.drop < 65535 then x.drop + 1 else x.drop
    let stalled := working ∧ (s.pcfg p).flow = .stall ∧ 64 ≤ x.fifo.length
    (working → x.fifo.length < 64 → exec (.captureBeat p w mark) s = .next (settle (withPort p { x with
      fifo := x.fifo ++ [{ word := w, mark := mark, boundary := none }]
      overrun := false
      idleCount := 0
      idleDeclared := false } s))) ∧
    (working → 64 ≤ x.fifo.length → (s.pcfg p).flow = .drop → exec (.captureBeat p w mark) s = .next (settle
      (withPort p { x with drop := drop, overrun := true, idleCount := 0, idleDeclared := false }
        (if x.overrun then s else overrun)))) ∧
    (working → 64 ≤ x.fifo.length → (s.pcfg p).flow = .fault →
      exec (.captureBeat p w mark) s = .next (settle (faultState p .overrun s))) ∧
    (¬ working → exec (.captureBeat p w mark) s = .next (settle s)) ∧
    (stalled → x.overrun = false →
      exec (.captureBeat p w mark) s = .next (settle (withPort p { x with overrun := true } overrun))) ∧
    (stalled → x.overrun = true → exec (.captureBeat p w mark) s = .next (settle s)) ∧
    (stalled → x.overrun = false →
      exec (.heldOffer p) s = .next (settle (withPort p { x with overrun := true } overrun))) ∧
    (¬ (stalled ∧ x.overrun = false) → exec (.heldOffer p) s = .next (settle s))

/-- R86, R112, R113: a pull takes the oldest word of an ACTIVE or CLOSING port and the head's progress rises; at the
guard index of the first repetition a GUARD record is posted, the final word gives the head its DONE, and a CLOSING port
whose drain is then at its end is closed (R129). R87: a pull of an empty ACTIVE port under FILL takes a filler. R88:
under HOLD a held offer then starts an underrun episode; any other held offer has no effect (R76). R75, R85: while the
port holds VALID low no beat crosses, and the partner's pull is a held offer; one on a port of the other direction has no
effect (log entry 5). -/
def Obligations.ReplayLinkEvents : Prop :=
  (∀ (p : PortId) (s : State), s.held = none → (s.pcfg p).dir = .capture →
    exec (.replayBeat p) s = .next (settle s)) ∧
  ∀ (p : PortId) (s : State), s.held = none → (s.pcfg p).dir = .replay →
    let x := s.port p
    let tag : Byte := match x.queue with | [] => 0 | h :: _ => h.desc.tag
    let underrun := post ⟨.underrun, .port p, tag, .noDetail, 0⟩ s
    let fill := if x.fill < 65535 then x.fill + 1 else x.fill
    let seen (u : State) : State :=
      withPort p { u.port p with underrun := false, idleCount := 0, idleDeclared := false } u
    let waiting := x.state = .active ∧ (s.pcfg p).flow = .hold ∧ x.fifo = []
    (∀ e rest h t b, x.state = .active ∨ x.state = .closing → x.fifo = e :: rest → x.queue = h :: t →
      e.boundary = some b →
      let moved := withPort p { x with fifo := rest, queue := { h with progress := h.progress + 1 } :: t } s
      let guarded := if h.desc.guard = some b.index ∧ b.rep = 1 then
        post ⟨.guard, .port p, h.desc.tag, .noDetail, b.index⟩ moved else moved
      exec (.replayBeat p) s = .next (settle (drainOver p (seen
        (if b.final = true then doneHead p .noDetail guarded else guarded))))) ∧
    (x.fifo = [] → x.state = .active → (s.pcfg p).flow = .fill →
      exec (.replayBeat p) s = .next (settle
        (withPort p { x with fill := fill, underrun := true, idleCount := 0, idleDeclared := false }
          (if x.underrun then s else underrun)))) ∧
    (x.state = .closed ∨ x.state = .idle ∨ x.state = .faulted ∨ (x.state = .closing ∧ x.fifo = []) →
      exec (.replayBeat p) s = .next (settle s)) ∧
    (waiting → x.underrun = false →
      exec (.replayBeat p) s = .next (settle (withPort p { x with underrun := true } underrun))) ∧
    (waiting → x.underrun = true → exec (.replayBeat p) s = .next (settle s)) ∧
    (waiting → x.underrun = false →
      exec (.heldOffer p) s = .next (settle (withPort p { x with underrun := true } underrun))) ∧
    (¬ (waiting ∧ x.underrun = false) → exec (.heldOffer p) s = .next (settle s))

/-! ### The end of a segment (Chapter 6) -/

/-- R106 and R113, steps 3 to 6, with R101, R116, R119, R121: what DONE of the head does. -/
def Obligations.DoneOfTheHead : Prop :=
  ∀ (p : PortId) (detail : Detail) (s : State) (h : QEntry) (t : List QEntry),
    let x := s.port p
    let copied := h.desc.recycle = true ∧ x.state ≠ .closing
    x.queue = h :: t →
      let queue := if copied then t ++ [{ desc := h.desc, progress := 0, started := false }] else t
      let cursor := x.fetch.map fun c => { c with pos := c.pos - 1 }
      let y := { x with
        queue := queue
        xen := if h.desc.stop then false else x.xen
        fetch := if copied ∧ (s.pcfg p).dir = .replay ∧ cursor = none then some { pos := t.length, rep := 1, off := 0 }
          else cursor
        stopBlock := match x.stopBlock with
          | .clear => .clear
          | .waiting 0 => .left
          | .waiting (n + 1) => .waiting n
          | .left => .left }
      let reported := if h.desc.notify ∨ h.desc.stop then
        post ⟨.segDone, .port p, h.desc.tag, detail, h.progress⟩ s else s
      let moved := withPort p
        (if x.state = .active ∧ queue = [] then
          { y with state := .idle, idleCount := 0, idleDeclared := false, underrun := false } else y) reported
      doneHead p detail s = { moved with eu := { moved.eu with
        summary := if h.desc.stop then moved.eu.summary ||| BitVec.ofNat 8 (2 ^ portIndex p) else moved.eu.summary } }

/-- R103 and R137: the mark log keeps the newest 16 entries, one for each word that carried MARK, and counts those it
discards, up to 255. -/
def Obligations.MarkLogKeepsTheNewestSixteen : Prop :=
  ∀ (tag : Byte) (index addr : Nat) (ws : List FifoWord) (x : Port), x.marks.length ≤ 16 → x.overwrites ≤ 255 →
    let added : List MarkEntry := (List.range ws.length).filterMap fun k =>
      if (ws[k]?.map (·.mark)) = some true then some ⟨tag, index + k, addr + k⟩ else none
    let all := x.marks ++ added
    x.logMarks tag index addr ws = { x with
      marks := all.drop (all.length - 16)
      overwrites := min 255 (x.overwrites + (all.length - 16)) }

/-! ### Ticks (Chapter 10) -/

/-- R176: a tick counts (R175), runs the refresh account (R50, R52), and takes the ports in turn (R93, R94, R130), each
step whole before the next, with its records and SUMMARY bits; and what that leaves of the time, the refresh account and
each port's idle count. -/
def Obligations.TickStepsInOrder : Prop :=
  ∀ s : State, s.held = none → ∃ t, exec .tick s = .next t ∧
    (let interval := if bits s.sc.cfg.refresh 0 8 = 0 then 256 else bits s.sc.cfg.refresh 0 8
      let counted : State := { s with tb := { divider := 0, tickCount := s.tb.tickCount + 1 } }
      let refreshed (u : State) : State :=
        let m := u.mc
        if m.state ≠ .ready then u
        else if m.intervalCount + 1 < interval then { u with mc := { m with intervalCount := m.intervalCount + 1 } }
        else if m.owed < 7 then { u with mc := { m with intervalCount := 0, owed := m.owed + 1 } }
        else
          let lost : State := { u with mc :=
            { m with intervalCount := 0, memSuspect := true, lossEpisode := true, mem := [] } }
          let told := post ⟨.refreshLost, .mem, 0, .noDetail, 0⟩ lost
          if m.lossEpisode then lost
          else { told with eu := { told.eu with summary := told.eu.summary ||| 0x40 } }
      let idled (p : PortId) (u : State) : State :=
        let x := u.port p
        let k := u.pcfg p
        let tag : Byte := match x.queue with | [] => 0 | h :: _ => h.desc.tag
        if ¬ (x.state = .active ∨ x.state = .closing) ∨ k.idleTicks = 0 ∨ x.idleDeclared = true then u
        else if x.idleCount + 1 < k.idleTicks then withPort p { x with idleCount := x.idleCount + 1 } u
        else
          let declared := withPort p { x with idleCount := x.idleCount + 1, idleDeclared := true }
            (post ⟨.linkIdle, .port p, tag, .noDetail, x.fifo.length⟩ u)
          if x.state = .closing ∧ k.dir = .replay then
            shut p .closeIdle x.fifo.length
              (orphanFlight p (postAll (outcomes p .segShort .closeIdle .close x.queue) declared))
          else declared
      t = settle (idled .p3 (idled .p2 (idled .p1 (idled .p0 (refreshed counted)))))) ∧
    t.tb = { divider := 0, tickCount := s.tb.tickCount + 1 } ∧ t.hp = s.hp ∧ t.sc = s.sc ∧
    t.mc.state = s.mc.state ∧ t.mc.init = s.mc.init ∧
    t.mc.sleepRequest = s.mc.sleepRequest ∧
    t.ma.host = s.ma.host ∧ t.ma.grant = s.ma.grant ∧
    (let interval := if bits s.sc.cfg.refresh 0 8 = 0 then 256 else bits s.sc.cfg.refresh 0 8
      let account (m : MemCtl) := (m.owed, m.intervalCount, m.lossEpisode, m.memSuspect, m.mem)
      let m := s.mc
      (m.state ≠ .ready → account t.mc = account m) ∧
      (m.state = .ready → m.intervalCount + 1 < interval →
        account t.mc = (m.owed, m.intervalCount + 1, m.lossEpisode, m.memSuspect, m.mem)) ∧
      (m.state = .ready → interval ≤ m.intervalCount + 1 → m.owed < 7 →
        account t.mc = (m.owed + 1, 0, m.lossEpisode, m.memSuspect, m.mem)) ∧
      (m.state = .ready → interval ≤ m.intervalCount + 1 → 7 ≤ m.owed →
        account t.mc = (m.owed, 0, true, true, []))) ∧
    (∀ p : PortId,
      let x := s.port p
      let k := s.pcfg p
      let runs := (x.state = .active ∨ x.state = .closing) ∧ k.idleTicks ≠ 0 ∧ x.idleDeclared = false
      let reached := k.idleTicks ≤ x.idleCount + 1
      let y := { t.port p with request := x.request, stopBlock := x.stopBlock }
      (¬ runs → y = x) ∧
      (runs → ¬ reached → y = { x with idleCount := x.idleCount + 1 }) ∧
      (runs → reached → ¬ (x.state = .closing ∧ k.dir = .replay) →
        y = { x with idleCount := x.idleCount + 1, idleDeclared := true }) ∧
      (runs → reached → x.state = .closing → k.dir = .replay →
        t.port p = { drop := x.drop, fill := x.fill, marks := x.marks, overwrites := x.overwrites } ∧
          t.ma.ports.get p = .opened))

/-- R50, R52, R93, R94, R130, R154, with the model's choice that the table's rows for parts of a tick run that part by
itself when it is due, and do nothing when it is not (log entry 6). -/
def Obligations.PartsOfATickSentAlone : Prop :=
  (∀ s : State, s.held = none →
    let interval := if bits s.sc.cfg.refresh 0 8 = 0 then 256 else bits s.sc.cfg.refresh 0 8
    let due := s.mc.state = .ready ∧ interval ≤ s.mc.intervalCount + 1
    let lost : State := { s with mc :=
      { s.mc with intervalCount := 0, memSuspect := true, lossEpisode := true, mem := [] } }
    let told := post ⟨.refreshLost, .mem, 0, .noDetail, 0⟩ lost
    (¬ due → exec .owedRise s = .next (settle s)) ∧
    (due → s.mc.owed < 7 → exec .owedRise s = .next (settle
      { s with mc := { s.mc with intervalCount := 0, owed := s.mc.owed + 1 } })) ∧
    (due → 7 ≤ s.mc.owed → s.mc.lossEpisode = true → exec .owedRise s = .next (settle lost)) ∧
    (due → 7 ≤ s.mc.owed → s.mc.lossEpisode = false → exec .owedRise s = .next (settle
      { told with eu := { told.eu with summary := told.eu.summary ||| 0x40 } })) ∧
    exec .eventAge s = .next (settle s)) ∧
  (∀ (s : State) (p : PortId), s.held = none →
    let x := s.port p
    let k := s.pcfg p
    let due := (x.state = .active ∨ x.state = .closing) ∧ k.idleTicks ≠ 0 ∧ x.idleDeclared = false ∧
      k.idleTicks ≤ x.idleCount + 1
    let tag : Byte := match x.queue with | [] => 0 | h :: _ => h.desc.tag
    let declared := withPort p { x with idleCount := x.idleCount + 1, idleDeclared := true }
      (post ⟨.linkIdle, .port p, tag, .noDetail, x.fifo.length⟩ s)
    (¬ due → exec (.linkIdle p) s = .next (settle s)) ∧
    (due → ¬ (x.state = .closing ∧ k.dir = .replay) → exec (.linkIdle p) s = .next (settle declared)) ∧
    (due → x.state = .closing → k.dir = .replay → exec (.linkIdle p) s = .next (settle
      (shut p .closeIdle x.fifo.length
        (orphanFlight p (postAll (outcomes p .segShort .closeIdle .close x.queue) declared))))))

/-! ### Completions (Chapters 3, 6 and 9) -/

/-- R48, R53, R54: a write at rising addresses puts each word in its cell with good parity, and every other cell reads
as before. R42, R54: a word is bad exactly when a byte and its parity bit hold an even number of 1 bits. -/
def Obligations.MemoryWritesTouchOnlyTheirWords : Prop :=
  (∀ m : MemWord, isBad m = false ↔ GoodParity m) ∧
  ∀ (m : Memory) (addr : Nat) (ws : List Word) (free a : Nat),
    ((∀ k, k < ws.length → cellOf a ≠ cellOf (addr + k)) → memRead (memWrite m addr ws) free a = memRead m free a) ∧
    (ws.length ≤ 1048576 → ∀ k w, ws[k]? = some w →
      (memRead (memWrite m addr ws) free (addr + k)).data = w ∧
        GoodParity (memRead (memWrite m addr ws) free (addr + k)) ∧
        memRead (memWrite m addr ws) free (addr + k) = { data := w, parity := parityOf w } ∧
        isBad (memRead (memWrite m addr ws) free (addr + k)) = false)

/-- R103 to R106: a capture port's WRITE_BURST, on an ACTIVE or CLOSING port: its words are in memory, the head's
progress rises, MARK words are logged, the guard is reported when its word is among them, and the head is DONE at its
last word or at its SPLIT mark; a CLOSING port whose drain is then at its end is closed (R127, R128); the grant is then
closed (R70). -/
def Obligations.WriteBurstCompletion : Prop :=
  ∀ (s : State) (f : Flight) (p : PortId) (h : QEntry) (t : List QEntry), Listening s → s.mc.flight = some f →
    f.kind = .writeBurst → f.who = .port p → f.orphan = false →
    s.hp.seq.running ≠ some (.portAbort p) → (s.port p).state = .active ∨ (s.port p).state = .closing →
    (s.port p).queue = h :: t →
      let n := f.count
      let x := { s.port p with queue := { h with progress := h.progress + n } :: t }
      let free := freed s
      let written := withPort p (x.logMarks h.desc.tag h.progress f.addr f.words)
        { free with mc := { free.mc with mem := memWrite s.mc.mem f.addr (f.words.map (·.word)) } }
      let guarded (g : Nat) := h.progress ≤ g ∧ g < h.progress + n
      let split := h.desc.last = true ∧ ∃ w, f.words.getLast? = some w ∧ w.mark = true
      ∃ told : State,
        (∀ g, h.desc.guard = some g → guarded g → told = post ⟨.guard, .port p, h.desc.tag, .noDetail, g⟩ written) ∧
        ((∀ g, h.desc.guard = some g → ¬ guarded g) → told = written) ∧
        (split → exec .writeBurstCompletion s =
          .next (settle (closeGrant (drainOver p (doneHead p .markEnd told))))) ∧
        (¬ split → h.progress + n = h.desc.length → exec .writeBurstCompletion s =
          .next (settle (closeGrant (drainOver p (doneHead p .noDetail told))))) ∧
        (¬ split → h.progress + n ≠ h.desc.length → exec .writeBurstCompletion s =
          .next (settle (closeGrant (drainOver p told))))

/-- R114: an orphan WRITE_BURST writes its words and an orphan READ_BURST frees its port's reservation; no port record,
progress or mark comes of either. -/
def Obligations.OrphanCompletions : Prop :=
  ∀ (s : State) (f : Flight) (p : PortId), Listening s → s.mc.flight = some f → f.who = .port p →
    f.orphan = true → s.hp.seq.running ≠ some (.portAbort p) →
      let free := freed s
      (f.kind = .writeBurst → exec .writeBurstCompletion s = .next (settle (closeGrant
        { free with mc := { free.mc with mem := memWrite s.mc.mem f.addr (f.words.map (·.word)) } }))) ∧
      (f.kind = .readBurst → exec .readBurstCompletion s = .next (settle (closeGrant
        { withPort p { s.port p with reservation := 0 } free with freeIndex := s.freeIndex + f.count })))

/-- R110, R111, R135, R184: a replay port's READ_BURST, on an ACTIVE or CLOSING port: the words read join the FIFO with
the MARK and boundary information given at the grant; bad words are reported once, and fault the port under PARITY FAULT;
a CLOSING port that has not faulted and whose drain is at its end is closed (R129). -/
def Obligations.ReadBurstCompletion : Prop :=
  ∀ (s : State) (f : Flight) (p : PortId), Listening s → s.mc.flight = some f → f.kind = .readBurst →
    f.who = .port p → f.orphan = false → s.hp.seq.running ≠ some (.portAbort p) →
    (s.port p).state = .active ∨ (s.port p).state = .closing →
      let ws := (List.range f.count).map fun k => memRead s.mc.mem (s.freeIndex + k) (f.addr + k)
      let bad := ws.countP isBad
      let tag : Byte := match f.slots with | [] => 0 | sl :: _ => sl.boundary.desc.tag
      let placed := withPort p
        { s.port p with
          fifo := (s.port p).fifo ++
            List.zipWith (fun sl m => { word := m.data, mark := sl.mark, boundary := some sl.boundary }) f.slots ws
          reservation := 0 }
        { freed s with freeIndex := s.freeIndex + f.count }
      let told := post ⟨.parity, .port p, tag, .noDetail, bad⟩ placed
      (bad = 0 → exec .readBurstCompletion s = .next (settle (closeGrant (drainOver p placed)))) ∧
      (bad ≠ 0 → (s.pcfg p).parityFault = false →
        exec .readBurstCompletion s = .next (settle (closeGrant (drainOver p told)))) ∧
      (bad ≠ 0 → (s.pcfg p).parityFault = true →
        exec .readBurstCompletion s = .next (settle (closeGrant (faultState p .parity told))))

/-- R13, R15, R49: a window WORD_READ fills the latch and reports bad parity, or its word is thrown away; a window
WORD_WRITE writes its word and empties the write buffer. Each also when a START arrived during it (R44). -/
def Obligations.WindowCompletions : Prop :=
  ∀ (s : State) (f : Flight), Listening s → s.mc.flight = some f → f.who = .host →
    let free := freed s
    let read := memRead s.mc.mem s.freeIndex f.addr
    (f.kind = .wordRead → f.orphan = false → exec .wordReadCompletion s = .next (settle (closeGrant
      { free with
        freeIndex := s.freeIndex + 1
        hp := { s.hp with win := { s.hp.win with
          latch := .ready read.data
          errors := if isBad read then s.hp.win.errors ||| 0x10 else s.hp.win.errors } } }))) ∧
    (f.kind = .wordRead → f.orphan = true → exec .wordReadCompletion s = .next (settle (closeGrant
      { free with freeIndex := s.freeIndex + 1 }))) ∧
    (f.kind = .wordWrite → exec .wordWriteCompletion s = .next (settle (closeGrant
      { free with
        mc := { free.mc with mem := memWrite s.mc.mem f.addr (f.words.map (·.word)) }
        hp := { s.hp with win := { s.hp.win with wbuf := none } } })))

/-- R49, R51, R52, R44 to R46: a REFRESH lowers owed, ending an episode below 7, but not in INIT, where PRECHARGE_ALL
follows; each init step issues the next in MEM_GEOM's order, and the last makes memory READY. -/
def Obligations.RefreshAndInitSteps : Prop :=
  ∀ (s : State), Listening s →
    (∀ f, s.mc.flight = some f → f.who = .refresh → s.mc.init = .idle → s.mc.state = .ready →
      exec .refreshCompletion s = .next (settle (closeGrant { s with mc := { s.mc with
        flight := none
        owed := s.mc.owed - 1
        lossEpisode := s.mc.lossEpisode && decide (7 ≤ s.mc.owed - 1) } }))) ∧
    (∀ f, s.mc.flight = some f → f.who = .refresh → s.mc.init = .awaiting → s.mc.state = .init →
      exec .refreshCompletion s = .next (settle (closeGrant { s with mc := { s.mc with
        init := .step (max 2 (bits s.sc.cfg.memGeom 4 4)) (flag s.sc.cfg.memGeom 8) 0
        flight := some { kind := .prechargeAll, who := .controller } } }))) ∧
    (∀ n modeFirst k f, s.mc.flight = some f → f.who = .controller → s.mc.init = .step n modeFirst k →
      (k ≤ n → exec .initStepCompletion s = .next (settle { s with mc := { s.mc with
        init := .step n modeFirst (k + 1)
        flight := some
          { kind := if (modeFirst = true ∧ k = 0) ∨ (modeFirst = false ∧ k = n) then .modeLoad else .initRefresh
            who := .controller } } })) ∧
      (k = n + 1 →
        let told := post ⟨.memReady, .mem, 0, .noDetail, n⟩ { s with mc := { s.mc with
          state := .ready
          init := .idle
          flight := none
          owed := 0
          intervalCount := 0
          lossEpisode := false
          memSuspect := false } }
        exec .initStepCompletion s = .next (settle
          { told with eu := { told.eu with summary := told.eu.summary ||| 0x40 } })))

/-- R171 to R173, R44: a chunk's words are covered; the command ends CANCELLED when a cancel was requested, NOT_AWAKE
when a START has put the controller in INIT, in which case PRECHARGE_ALL is issued, OK when the whole count is covered,
and otherwise goes on. -/
def Obligations.MemoryCommandChunks : Prop :=
  ∀ (s : State) (f : Flight) (j : Job), Listening s → s.mc.flight = some f → f.who = .host →
    let free := freed s
    let n := j.covered + f.count
    let job : Job := { j with covered := n }
    let result : Option Result :=
      if j.cancel then some .cancelled
      else if s.mc.state ≠ .ready then some .notAwake
      else if j.count ≤ n then some .ok
      else none
    (∀ pattern, f.kind = .writeBurst → s.hp.seq.running = some (.memFill j pattern) →
      let filled : State :=
        { free with mc := { free.mc with mem := memWrite s.mc.mem f.addr (f.words.map (·.word)) } }
      let res : Words4 := { w2 := BitVec.ofNat 16 n, w3 := BitVec.ofNat 16 (n / 65536) }
      exec .memFillChunkCompletion s = .next (settle (closeGrant (match result with
        | some r => ended r res filled
        | none => busy (.memFill job pattern) filled)))) ∧
    (∀ crc errors, f.kind = .readBurst → s.hp.seq.running = some (.regionCrc j crc errors) → errors ≤ 65535 →
      let ws := (List.range f.count).map fun k => memRead s.mc.mem (s.freeIndex + k) (f.addr + k)
      let sum := crcOver (ws.map (·.data)) crc
      let bad := min 65535 (errors + ws.countP isBad)
      let read : State := { free with freeIndex := s.freeIndex + f.count }
      let res : Words4 :=
        { w0 := sum, w1 := BitVec.ofNat 16 bad, w2 := BitVec.ofNat 16 n, w3 := BitVec.ofNat 16 (n / 65536) }
      exec .regionCrcChunkCompletion s = .next (settle (closeGrant (match result with
        | some r => ended r res read
        | none => busy (.regionCrc job sum bad) read))))

/-- R133, R134, R186: the completion a PORT_ABORT waits for is processed in full for the port, then the abort executes,
the grant is closed and the command completes. The model's choices: sent alone, ABORT_EXECUTE does so once no transaction
is in flight, and the close ends carry out a drain that has reached its end (log entry 10; R128, R129); each does nothing
when that is not so, and a completion whose transaction is not in flight does nothing (log entry 5). -/
def Obligations.WaitingAbortAndDrainEnds : Prop :=
  (∀ (s : State) (f : Flight) (p : PortId), Listening s → s.mc.flight = some f → f.who = .port p →
    s.hp.seq.running = some (.portAbort p) →
      (f.kind = .writeBurst → exec .writeBurstCompletion s = .next (settle (ended .ok {}
        (closeGrant (abortPort p (capturedBurst p f (freed s))))))) ∧
      (f.kind = .readBurst → f.orphan = true ∨ (s.port p).state = .active ∨ (s.port p).state = .closing →
        exec .readBurstCompletion s = .next (settle (ended .ok {}
          (closeGrant (abortPort p (replayedBurst p f (freed s)))))))) ∧
  (∀ (c : Instr) (s : State), s.held = none → c ∈ completionRows → (∀ f, s.mc.flight = some f → ¬ Completes c f) →
    exec c s = .next (settle s)) ∧
  (∀ (s : State) (p : PortId),
    let x := s.port p
    abortPort p s = (match x.state with
      | .closed => s
      | .faulted => shut p .abort 0 s
      | _ => shut p .abort x.fifo.length (postAll (outcomes p .segAborted .hostAbort .abort x.queue) s))) ∧
  (∀ (s : State) (p : PortId), s.held = none →
    let x := s.port p
    let drained := x.state = .closing ∧
      (((s.pcfg p).dir = .capture ∧ liveFlight s p = false ∧ (x.fifo = [] ∨ x.queue = [])) ∨
        ((s.pcfg p).dir = .replay ∧ x.fifo = [] ∧ x.reservation = 0))
    let shutDown := shut p .close x.fifo.length (postAll (outcomes p .segShort .close .close x.queue) s)
    (s.hp.seq.running = some (.portAbort p) → s.mc.flight = none →
      exec .abortExecute s = .next (settle (ended .ok {} (closeGrant (abortPort p s))))) ∧
    ((∀ q, s.hp.seq.running ≠ some (.portAbort q)) ∨ s.mc.flight ≠ none → exec .abortExecute s = .next (settle s)) ∧
    ((s.pcfg p).dir = .replay → exec (.captureCloseEnd p) s = .next (settle s)) ∧
    ((s.pcfg p).dir = .capture → exec (.replayCloseEnd p) s = .next (settle s)) ∧
    ((s.pcfg p).dir = .capture → drained → exec (.captureCloseEnd p) s = .next (settle shutDown)) ∧
    ((s.pcfg p).dir = .capture → ¬ drained → exec (.captureCloseEnd p) s = .next (settle s)) ∧
    ((s.pcfg p).dir = .replay → drained → exec (.replayCloseEnd p) s = .next (settle shutDown)) ∧
    ((s.pcfg p).dir = .replay → ¬ drained → exec (.replayCloseEnd p) s = .next (settle s)))

/-! ### Arbitration (Chapter 4) -/

/-- R51, R60, R61: the candidates are the gated requests, each with its urgency and level. That REFRESH's urgency follows
a changed urgent limit at once is the model's choice, log entry 19 (R51 against R26). R62 to R66: an arbitration point
with a gated request grants the eligible request of the lowest level, and of equal levels the first in requester index
order; when no subject requester is eligible and a HELD one has a gated request, every fairness state is first made OPEN.
The next state is `grant` of the winner, which `GrantsAndBurstSizes` states for each requester. With no gated request
nothing changes. No point is held, and nothing but requests, stop blocks and pins can change, while a transaction is in
flight or the controller is not READY (R48, R62), or while the sleep test is due (log entry 18). -/
def Obligations.ArbitrationPointGrantsTheWinner : Prop :=
  (∀ (s : State) (c : Candidate), c ∈ candidates s ↔ GatedRequest s c) ∧
  (∀ s : State, s.held = none →
    s.mc.state ≠ .ready ∨ s.mc.flight ≠ none ∨ (s.mc.sleepRequest = true ∧ s.mc.owed = 0) →
      exec .arbitrationPoint s = .next (settle s)) ∧
  ∀ s : State, s.held = none → Settled s → s.mc.state = .ready → s.mc.flight = none →
    (s.mc.sleepRequest = true → s.mc.owed ≠ 0) →
    let cs := candidates s
    let held (r : Requester) := (r = .host ∧ s.ma.host = .held) ∨ ∃ p, r = .port p ∧ s.ma.ports.get p = .held
    let subject (r : Requester) := r = .host ∨ ∃ p, r = .port p
    let releases := (∀ c ∈ cs, subject c.who → c.urg = .normal ∧ held c.who) ∧ ∃ c ∈ cs, held c.who
    let eligible (c : Candidate) := c.urg = .urgent ∨ ¬ held c.who ∨ releases
    let released : State :=
      { s with ma := { s.ma with host := .opened, ports := ⟨.opened, .opened, .opened, .opened⟩ } }
    (cs = [] → exec .arbitrationPoint s = .next s) ∧
    (cs ≠ [] → ∃ w f t, w ∈ cs ∧ eligible w ∧
      (∀ c ∈ cs, eligible c → w.level < c.level ∨
        (w.level = c.level ∧ requesterIndex w.who ≤ requesterIndex c.who)) ∧
      exec .arbitrationPoint s = .next t ∧
      (releases → t = settle (grant w released)) ∧ (¬ releases → t = settle (grant w s)) ∧
      t.mc.flight = some f ∧ f.who = w.who ∧ t.ma.grant = some { who := w.who, cls := w.urg } ∧
      (releases → t.ma.host = .opened ∧ ∀ p : PortId, t.ma.ports.get p = .opened) ∧
      (¬ releases → t.ma.host = s.ma.host ∧ t.ma.ports = s.ma.ports))

/-- R67, R68, R69, R102, R108, R109: the transaction each requester is granted, its word count and address, and what
the grant does to a port. -/
def Obligations.GrantsAndBurstSizes : Prop :=
  ∀ (c : Candidate) (s : State),
    let granted (f : Flight) (t : State) : State :=
      { t with mc := { t.mc with flight := some f }, ma := { t.ma with grant := some { who := c.who, cls := c.urg } } }
    (∀ p h t, c.who = .port p → (s.pcfg p).dir = .capture → (s.pcfg p).burstCode ≤ 3 → (s.port p).queue = h :: t →
      let x := s.port p
      let k := s.pcfg p
      let limit := min (4 * 2 ^ k.burstCode) (min x.fifo.length (h.desc.length - h.progress))
      let n := match x.fifo.findIdx? (·.mark) with
        | some i => if h.desc.last then min limit (i + 1) else limit
        | none => limit
      grant c s = granted
        { kind := .writeBurst, who := .port p, addr := k.baseUnits * 1024 + h.desc.start + h.progress, count := n,
          words := x.fifo.take n }
        (withPort p { x with fifo := x.fifo.drop n } s)) ∧
    (∀ p cur e, c.who = .port p → (s.pcfg p).dir = .replay → (s.pcfg p).burstCode ≤ 3 →
      (s.port p).fetch = some cur → (s.port p).queue[cur.pos]? = some e →
      let x := s.port p
      let k := s.pcfg p
      let d := e.desc
      let n := min (4 * 2 ^ k.burstCode) (min (64 - x.fifo.length - x.reservation) (d.length - cur.off))
      let finished := d.length ≤ cur.off + n ∧ d.rpt.getD 1 ≤ cur.rep
      grant c s = granted
        { kind := .readBurst, who := .port p, addr := k.baseUnits * 1024 + d.start + cur.off, count := n,
          slots := (List.range n).map fun i =>
            let final := decide (cur.rep = d.rpt.getD 1 ∧ cur.off + i = d.length - 1)
            { mark := final && d.last, boundary := { desc := d, rep := cur.rep, index := cur.off + i, final := final } } }
        (withPort p { x with
          reservation := n
          queue := x.queue.set cur.pos { e with started := true }
          fetch :=
            if cur.off + n < d.length then some { cur with off := cur.off + n }
            else if cur.rep < d.rpt.getD 1 then some { cur with rep := cur.rep + 1, off := 0 }
            else if cur.pos + 1 < x.queue.length then some { pos := cur.pos + 1, rep := 1, off := 0 }
            else none
          stopBlock := if finished ∧ d.stop = true then .waiting cur.pos else x.stopBlock } s)) ∧
    (c.who = .refresh → grant c s = granted { kind := .refresh, who := .refresh } s) ∧
    (c.who = .host →
      (∀ b, s.hp.win.wbuf = some b → grant c s = granted
        { kind := .wordWrite, who := .host, addr := b.addr.toNat, count := 1,
          words := [{ word := b.word, mark := false }] } s) ∧
      (∀ j pattern, s.hp.win.wbuf = none → s.hp.seq.running = some (.memFill j pattern) →
        let n := min 16 (j.count - j.covered)
        grant c s = granted
          { kind := .writeBurst, who := .host, addr := j.start + j.covered, count := n,
            words := List.replicate n { word := pattern, mark := false } } s) ∧
      (∀ j crc errors, s.hp.win.wbuf = none → s.hp.seq.running = some (.regionCrc j crc errors) →
        grant c s = granted
          { kind := .readBurst, who := .host, addr := j.start + j.covered, count := min 16 (j.count - j.covered) } s) ∧
      (s.hp.win.wbuf = none → jobOf s = none → s.hp.win.latch = .pending →
        grant c s = granted { kind := .wordRead, who := .host, addr := s.hp.win.addr.toNat, count := 1 } s))

/-- R70 and R71: at a NORMAL-class completion with fairness enabled, while another subject requester has a gated
request, the completing requester becomes HELD unless it is a CLOSED port; the grant record is emptied; nothing else
changes but the ports' requests, which are evaluated again before the test. -/
def Obligations.FairnessUpdateAtCompletion : Prop :=
  ∀ s : State,
    let u := settlePorts s
    let emptied : State := { u with ma := { s.ma with grant := none } }
    let others (r : Requester) := ∃ c ∈ candidates u, c.who ≠ r ∧ (c.who = .host ∨ ∃ p, c.who = .port p)
    (s.ma.grant = none → closeGrant s = u) ∧
    (∀ r, s.ma.grant = some { who := r, cls := .urgent } → closeGrant s = emptied) ∧
    (∀ r, s.ma.grant = some { who := r, cls := .normal } → s.sc.cfg.fairness = false ∨ ¬ others r →
      closeGrant s = emptied) ∧
    (s.ma.grant = some { who := .refresh, cls := .normal } → closeGrant s = emptied) ∧
    (s.ma.grant = some { who := .host, cls := .normal } → s.sc.cfg.fairness = true → others .host →
      closeGrant s = { u with ma := { s.ma with grant := none, host := .held } }) ∧
    (∀ p, s.ma.grant = some { who := .port p, cls := .normal } → s.sc.cfg.fairness = true → others (.port p) →
      ((s.port p).state ≠ .closed →
        closeGrant s = { u with ma := { s.ma with grant := none, ports := s.ma.ports.set p .held } }) ∧
      ((s.port p).state = .closed → closeGrant s = emptied))

/-! ### Resets (Chapter 10) -/

/-- R177 and R181: a power-on or pin reset takes effect at once and holds the part, which then ignores every event and
returns 0000H to every read, until the release, after which it holds Table 10-2's values and the cause. The queue of
commands is kept. -/
def Obligations.PowerOnAndPinReset : Prop :=
  ∀ s : State,
    let clean (held : Option ResetCause) (cause : ResetCause) : State :=
      { pending := s.pending
        freeIndex := s.freeIndex
        held := held
        hp := { dataBus := s.hp.dataBus }
        sc := { device := .setup, cfg := {}, resetCause := cause, resetPending := false } }
    exec .powerOnReset s = .next (clean (some .power) .power) ∧
    (s.held ≠ some .power → exec .pinReset s = .next (clean (some .pin) .pin)) ∧
    (s.held = some .power → exec .pinReset s = .next (clean (some .power) .power)) ∧
    (∀ cause, s.held = some cause → exec .resetRelease s = .next (clean none cause)) ∧
    (s.held = none → exec .resetRelease s = .next (settle s)) ∧
    (∀ c cause, s.held = some cause → isReset c = false →
      exec c s = .next (if isRead c then { s with hp := { s.hp with dataBus := 0 } } else s))

/-! ### Invariants -/

/-- The state after reset meets every invariant. -/
def Obligations.ResetMeetsEveryInvariant : Prop :=
  MemoryCanonical State.reset ∧ EventUnitSound State.reset ∧ PortsSound State.reset ∧ FairnessSound State.reset ∧
    ControllerSound State.reset ∧ Settled State.reset ∧ ConfigurationSound State.reset ∧ TransfersSound State.reset

/-- Every step keeps buffer memory in its canonical form, every written word with good parity (R53, R55). -/
def Obligations.StepKeepsMemoryCanonical : Prop :=
  ∀ s t : State, MemoryCanonical s → step s = .next t → MemoryCanonical t

/-- Every step keeps the Event Unit's bounds, gapless sequence numbers, and the relation of LOST to the lost count and
the full queue (R146, R147). -/
def Obligations.StepKeepsEventUnitSound : Prop :=
  ∀ s t : State, EventUnitSound s → step s = .next t → EventUnitSound t

/-- Every step keeps each port's bounds, the queue that goes with its state, and an empty CLOSED port (R97, R98, R101,
R132, R137). On a sound controller every step also keeps a legal configuration outside SETUP, open ports on an ARMED
device (R19, R35), and the words in transfer: fill plus reservation at most 64 (R77, R78), progress below the total, and
on a replay port FIFO, reservation and fetch cursor in the order of the queue's words (R97, R107, R108). -/
def Obligations.StepKeepsPortsSound : Prop :=
  (∀ s t : State, PortsSound s → step s = .next t → PortsSound t) ∧
  (∀ s t : State, PortsSound s → ControllerSound s → ConfigurationSound s → TransfersSound s → step s = .next t →
    ConfigurationSound t ∧ TransfersSound t)

/-- Every step keeps every fairness state OPEN while fairness is disabled, and a CLOSED port's OPEN (R72, R73). -/
def Obligations.StepKeepsFairnessSound : Prop :=
  ∀ s t : State, FairnessSound s → step s = .next t → FairnessSound t

/-- Every step keeps the relations of the device state, the controller state, the transaction in flight, the grant
record, the sleep request and the refresh account (R19, R43 to R48, R50 to R52, R56, R59, R133, R178). -/
def Obligations.StepKeepsControllerSound : Prop :=
  ∀ s t : State, ControllerSound s → step s = .next t → ControllerSound t

/-- Every step leaves requests and pins as the rules give them from the rest of the state (R79, R85, R91, R92, R152,
R177). -/
def Obligations.StepKeepsSettled : Prop :=
  ∀ s t : State, Settled s → step s = .next t → Settled t
end

