-- ==== Sys2Proof/Laws/Checks.lean ====
section
/-! SUPPORT. The first failing item of a list of checks, and the first pair of level users with equal levels (R35 to
R37). -/

namespace Sys2Proof.Machine

theorem firstOf_eq_none {α : Type} (l : List (Bool × α)) : firstOf l = none ↔ ∀ x, (true, x) ∉ l := by
  induction l with
  | nil => simp [firstOf]
  | cons e t ih =>
    obtain ⟨b, y⟩ := e
    cases b <;> simp [firstOf, ih]
    exact ⟨y, fun h => absurd rfl h⟩

theorem firstOf_append {α : Type} (a b : List (Bool × α)) : firstOf (a ++ b) = (firstOf a).or (firstOf b) := by
  induction a with
  | nil => rfl
  | cons e t ih =>
    obtain ⟨x, y⟩ := e
    cases x <;> simp [firstOf, ih]

/-- The item found is one of those that fail. -/
theorem firstOf_mem {α : Type} {l : List (Bool × α)} {x : α} (h : firstOf l = some x) : (true, x) ∈ l := by
  induction l with
  | nil => simp [firstOf] at h
  | cons e t ih =>
    obtain ⟨b, y⟩ := e
    cases b with
    | true => simp [firstOf] at h; simp [h]
    | false => exact List.mem_cons_of_mem _ (ih (by simpa [firstOf] using h))

/-- In a list in order of `place`, the item found stands at or before every item that fails. -/
theorem firstOf_le {α : Type} (place : α → Nat) {l : List (Bool × α)} {x y : α} (h : firstOf l = some x)
    (sorted : l.Pairwise fun a b => place a.2 ≤ place b.2) (hy : (true, y) ∈ l) : place x ≤ place y := by
  induction l with
  | nil => simp at hy
  | cons e t ih =>
    obtain ⟨b, z⟩ := e
    rw [List.pairwise_cons] at sorted
    cases b with
    | true =>
      obtain rfl : z = x := by simpa [firstOf] using h
      rcases List.mem_cons.1 hy with hy | hy
      · cases hy; exact le_refl _
      · exact sorted.1 _ hy
    | false => exact ih (by simpa [firstOf] using h) sorted.2 (by simpa using hy)

/-- In a list of users in rising order, the entry found for a level has the lowest number. -/
theorem find_level_le {l : List (Nat × Nat)} (sorted : l.Pairwise fun a b => a.1 < b.1) {v k b : Nat}
    (h : l.find? (fun e => e.2 == k) = some (v, k)) (hb : (b, k) ∈ l) : v ≤ b := by
  induction l with
  | nil => simp at hb
  | cons e t ih =>
    rw [List.pairwise_cons] at sorted
    by_cases he : e.2 = k
    · have hv : e = (v, k) := by simpa [List.find?, he] using h
      rcases List.mem_cons.1 hb with hb | hb
      · rw [hv] at hb; cases hb; exact le_refl _
      · have := sorted.1 _ hb
        rw [hv] at this
        exact this.le
    · have hk : (e.2 == k) = false := by simpa using he
      rcases List.mem_cons.1 hb with hb | hb
      · exact absurd (by rw [← hb]) he
      · exact ih sorted.2 (by simpa [List.find?, hk] using h) hb

/-- No conflict is found exactly when no two users share a level. -/
theorem levelConflict_eq_none {l : List (Nat × Nat)} (sorted : l.Pairwise fun a b => a.1 < b.1) :
    levelConflict l = none ↔ ∀ u v k, u < v → (u, k) ∈ l → (v, k) ∉ l := by
  induction l with
  | nil => simp [levelConflict]
  | cons e t ih =>
    obtain ⟨u, k⟩ := e
    rw [List.pairwise_cons] at sorted
    simp only [levelConflict]
    rcases hf : t.find? (fun e => e.2 == k) with _ | ⟨v, k'⟩
    · have alone : ∀ v, (v, k) ∉ t := fun v hv => List.find?_eq_none.1 hf _ hv (by simp)
      simp only [hf, ih sorted.2]
      constructor
      · intro H a b c hab ha hb
        rcases List.mem_cons.1 ha with ha | ha <;> rcases List.mem_cons.1 hb with hb | hb
        · cases ha; cases hb; omega
        · cases ha; exact alone _ hb
        · cases hb; exact absurd (sorted.1 _ ha) (by simp; omega)
        · exact H a b c hab ha hb
      · intro H a b c hab ha hb
        exact H a b c hab (by simp [ha]) (by simp [hb])
    · obtain rfl : k' = k := by simpa using List.find?_some hf
      have hv := List.mem_of_find?_eq_some hf
      simp only [hf, reduceCtorEq, false_iff]
      intro H
      exact H u v k' (sorted.1 _ hv) (by simp) (by simp [hv])

/-- The conflict found is that of the pair lowest in its first user, and then in its second. -/
theorem levelConflict_eq_some {l : List (Nat × Nat)} (sorted : l.Pairwise fun a b => a.1 < b.1) {f : ArmFailure}
    (h : levelConflict l = some f) :
    ∃ u v k, f = { code := 7, users := (u, v, k) } ∧ u < v ∧ (u, k) ∈ l ∧ (v, k) ∈ l ∧
      ∀ a b c, a < b → (a, c) ∈ l → (b, c) ∈ l → u < a ∨ (u = a ∧ v ≤ b) := by
  induction l with
  | nil => simp [levelConflict] at h
  | cons e t ih =>
    obtain ⟨u, k⟩ := e
    rw [List.pairwise_cons] at sorted
    simp only [levelConflict] at h
    rcases hf : t.find? (fun e => e.2 == k) with _ | ⟨v, k'⟩
    · rw [hf] at h
      obtain ⟨a, b, c, rfl, hab, ha, hb, H⟩ := ih sorted.2 h
      have alone : ∀ v, (v, k) ∉ t := fun v hv => List.find?_eq_none.1 hf _ hv (by simp)
      refine ⟨a, b, c, rfl, hab, by simp [ha], by simp [hb], fun a' b' c' hab' ha' hb' => ?_⟩
      rcases List.mem_cons.1 ha' with ha' | ha' <;> rcases List.mem_cons.1 hb' with hb' | hb'
      · cases ha'; cases hb'; omega
      · cases ha'; exact absurd hb' (alone _)
      · cases hb'; exact absurd (sorted.1 _ ha') (by simp; omega)
      · exact H a' b' c' hab' ha' hb'
    · obtain rfl : k' = k := by simpa using List.find?_some hf
      have hv := List.mem_of_find?_eq_some hf
      rw [hf] at h
      refine ⟨u, v, k', by simpa using h.symm, sorted.1 _ hv, by simp, by simp [hv], fun a b c hab ha hb => ?_⟩
      rcases List.mem_cons.1 ha with ha | ha
      · cases ha
        refine Or.inr ⟨rfl, ?_⟩
        rcases List.mem_cons.1 hb with hb | hb
        · cases hb; omega
        · exact find_level_le sorted.2 hf hb
      · exact Or.inl (sorted.1 _ ha)

end Sys2Proof.Machine
end

