-- ==== Sys2Proof/Laws/Codes.lean ====
section
/-! SUPPORT. The parity fold counts 1 bits (R42), and the CRC takes its bits in the order of the rule (R172). -/

namespace Sys2Proof.Machine

open Sys2Proof.Safety

theorem xorBits_eq (w : Word) (n : Nat) :
    xorBits w n = decide ((List.range n).countP (fun i => w.getLsbD i) % 2 = 1) := by
  induction n with
  | zero => rfl
  | succ n ih =>
    have last : ([n].countP fun i => w.getLsbD i) = (w.getLsbD n).toNat := by
      cases h : w.getLsbD n <;> simp [h]
    rw [xorBits, ih, List.range_succ, List.countP_append, last]
    rcases Nat.mod_two_eq_zero_or_one ((List.range n).countP fun i => w.getLsbD i) with h | h <;>
      cases w.getLsbD n <;> simp [h, Nat.add_mod]

theorem crcBit_eq_crcStep (crc : Word) (b : Bool) : crcBit crc b = crcStep crc b := by
  have shift : crc <<< 1 = BitVec.ofNat 16 (crc.toNat * 2) := by
    apply BitVec.eq_of_toNat_eq
    simp [Nat.shiftLeft_eq]
  unfold crcBit crcStep
  simp only [shift]

theorem crcBits_eq_foldl (w crc : Word) (n : Nat) :
    crcBits w n crc = ((List.range n).map fun k => w.getLsbD (n - 1 - k)).foldl crcStep crc := by
  induction n generalizing crc with
  | zero => rfl
  | succ n ih =>
    rw [crcBits, ih, crcBit_eq_crcStep, List.range_succ_eq_map]
    simp [List.foldl_map, Nat.sub_sub, Nat.add_comm]

end Sys2Proof.Machine
end

