-- ==== Sys2Proof/Laws/State.lean ====
section
/-! SUPPORT. One lemma for each field under each update of State, true by definition, and the laws of Quad: later
proofs need not unfold a record update. -/

namespace Sys2Proof.Machine

/-! ### Quad -/

@[simp] theorem Quad.get_set_self {α : Type} (q : Quad α) (p : PortId) (x : α) : (q.set p x).get p = x := by
  cases p <;> rfl

@[simp] theorem Quad.get_set_ne {α : Type} (q : Quad α) {p r : PortId} (x : α) (h : r ≠ p) :
    (q.set p x).get r = q.get r := by
  cases p <;> cases r <;> first | rfl | exact absurd rfl h

theorem Quad.get_set {α : Type} (q : Quad α) (p r : PortId) (x : α) :
    (q.set p x).get r = if r = p then x else q.get r := by
  cases p <;> cases r <;> rfl

@[simp] theorem Quad.get_map {α β : Type} (f : PortId → α → β) (q : Quad α) (p : PortId) :
    (q.map f).get p = f p (q.get p) := by
  cases p <;> rfl

@[simp] theorem Quad.set_get {α : Type} (q : Quad α) (p : PortId) : q.set p (q.get p) = q := by
  cases p <;> rfl

@[simp] theorem Quad.set_set {α : Type} (q : Quad α) (p : PortId) (x y : α) : (q.set p x).set p y = q.set p y := by
  cases p <;> rfl

theorem Quad.set_comm {α : Type} (q : Quad α) {p r : PortId} (x y : α) (h : r ≠ p) :
    (q.set p x).set r y = (q.set r y).set p x := by
  cases p <;> cases r <;> first | rfl | exact absurd rfl h

theorem Quad.eq_of_get {α : Type} {q r : Quad α} (h : ∀ p, q.get p = r.get p) : q = r := by
  have h0 := h .p0
  have h1 := h .p1
  have h2 := h .p2
  have h3 := h .p3
  cases q
  cases r
  simp_all [Quad.get]

@[simp] theorem Quad.map_map {α β γ : Type} (f : PortId → β → γ) (g : PortId → α → β) (q : Quad α) :
    (q.map g).map f = q.map fun p x => f p (g p x) := rfl

theorem Quad.map_set {α β : Type} (f : PortId → α → β) (q : Quad α) (p : PortId) (x : α) :
    (q.set p x).map f = (q.map f).set p (f p x) := by
  cases p <;> rfl


/-! ### updHp -/

@[simp] theorem State.updHp_pending (f : HostPort → HostPort) (s : State) : (s.updHp f).pending = s.pending := rfl
@[simp] theorem State.updHp_held (f : HostPort → HostPort) (s : State) : (s.updHp f).held = s.held := rfl
@[simp] theorem State.updHp_hp (f : HostPort → HostPort) (s : State) : (s.updHp f).hp = f s.hp := rfl
@[simp] theorem State.updHp_sc (f : HostPort → HostPort) (s : State) : (s.updHp f).sc = s.sc := rfl
@[simp] theorem State.updHp_mc (f : HostPort → HostPort) (s : State) : (s.updHp f).mc = s.mc := rfl
@[simp] theorem State.updHp_ma (f : HostPort → HostPort) (s : State) : (s.updHp f).ma = s.ma := rfl
@[simp] theorem State.updHp_ports (f : HostPort → HostPort) (s : State) : (s.updHp f).ports = s.ports := rfl
@[simp] theorem State.updHp_eu (f : HostPort → HostPort) (s : State) : (s.updHp f).eu = s.eu := rfl
@[simp] theorem State.updHp_tb (f : HostPort → HostPort) (s : State) : (s.updHp f).tb = s.tb := rfl
@[simp] theorem State.updHp_pins (f : HostPort → HostPort) (s : State) : (s.updHp f).pins = s.pins := rfl
@[simp] theorem State.updHp_freeIndex (f : HostPort → HostPort) (s : State) : (s.updHp f).freeIndex = s.freeIndex := rfl
@[simp] theorem State.updHp_port (f : HostPort → HostPort) (s : State) (p : PortId) :
    (s.updHp f).port p = s.port p := rfl
@[simp] theorem State.updHp_pcfg (f : HostPort → HostPort) (s : State) (p : PortId) :
    (s.updHp f).pcfg p = s.pcfg p := rfl

/-! ### updSc -/

@[simp] theorem State.updSc_pending (f : Setup → Setup) (s : State) : (s.updSc f).pending = s.pending := rfl
@[simp] theorem State.updSc_held (f : Setup → Setup) (s : State) : (s.updSc f).held = s.held := rfl
@[simp] theorem State.updSc_hp (f : Setup → Setup) (s : State) : (s.updSc f).hp = s.hp := rfl
@[simp] theorem State.updSc_sc (f : Setup → Setup) (s : State) : (s.updSc f).sc = f s.sc := rfl
@[simp] theorem State.updSc_mc (f : Setup → Setup) (s : State) : (s.updSc f).mc = s.mc := rfl
@[simp] theorem State.updSc_ma (f : Setup → Setup) (s : State) : (s.updSc f).ma = s.ma := rfl
@[simp] theorem State.updSc_ports (f : Setup → Setup) (s : State) : (s.updSc f).ports = s.ports := rfl
@[simp] theorem State.updSc_eu (f : Setup → Setup) (s : State) : (s.updSc f).eu = s.eu := rfl
@[simp] theorem State.updSc_tb (f : Setup → Setup) (s : State) : (s.updSc f).tb = s.tb := rfl
@[simp] theorem State.updSc_pins (f : Setup → Setup) (s : State) : (s.updSc f).pins = s.pins := rfl
@[simp] theorem State.updSc_freeIndex (f : Setup → Setup) (s : State) : (s.updSc f).freeIndex = s.freeIndex := rfl
@[simp] theorem State.updSc_port (f : Setup → Setup) (s : State) (p : PortId) : (s.updSc f).port p = s.port p := rfl
@[simp] theorem State.updSc_pcfg (f : Setup → Setup) (s : State) (p : PortId) :
    (s.updSc f).pcfg p = (f s.sc).cfg.ports.get p := rfl

/-! ### updMc -/

@[simp] theorem State.updMc_pending (f : MemCtl → MemCtl) (s : State) : (s.updMc f).pending = s.pending := rfl
@[simp] theorem State.updMc_held (f : MemCtl → MemCtl) (s : State) : (s.updMc f).held = s.held := rfl
@[simp] theorem State.updMc_hp (f : MemCtl → MemCtl) (s : State) : (s.updMc f).hp = s.hp := rfl
@[simp] theorem State.updMc_sc (f : MemCtl → MemCtl) (s : State) : (s.updMc f).sc = s.sc := rfl
@[simp] theorem State.updMc_mc (f : MemCtl → MemCtl) (s : State) : (s.updMc f).mc = f s.mc := rfl
@[simp] theorem State.updMc_ma (f : MemCtl → MemCtl) (s : State) : (s.updMc f).ma = s.ma := rfl
@[simp] theorem State.updMc_ports (f : MemCtl → MemCtl) (s : State) : (s.updMc f).ports = s.ports := rfl
@[simp] theorem State.updMc_eu (f : MemCtl → MemCtl) (s : State) : (s.updMc f).eu = s.eu := rfl
@[simp] theorem State.updMc_tb (f : MemCtl → MemCtl) (s : State) : (s.updMc f).tb = s.tb := rfl
@[simp] theorem State.updMc_pins (f : MemCtl → MemCtl) (s : State) : (s.updMc f).pins = s.pins := rfl
@[simp] theorem State.updMc_freeIndex (f : MemCtl → MemCtl) (s : State) : (s.updMc f).freeIndex = s.freeIndex := rfl
@[simp] theorem State.updMc_port (f : MemCtl → MemCtl) (s : State) (p : PortId) : (s.updMc f).port p = s.port p := rfl
@[simp] theorem State.updMc_pcfg (f : MemCtl → MemCtl) (s : State) (p : PortId) : (s.updMc f).pcfg p = s.pcfg p := rfl

/-! ### updMa -/

@[simp] theorem State.updMa_pending (f : Arbiter → Arbiter) (s : State) : (s.updMa f).pending = s.pending := rfl
@[simp] theorem State.updMa_held (f : Arbiter → Arbiter) (s : State) : (s.updMa f).held = s.held := rfl
@[simp] theorem State.updMa_hp (f : Arbiter → Arbiter) (s : State) : (s.updMa f).hp = s.hp := rfl
@[simp] theorem State.updMa_sc (f : Arbiter → Arbiter) (s : State) : (s.updMa f).sc = s.sc := rfl
@[simp] theorem State.updMa_mc (f : Arbiter → Arbiter) (s : State) : (s.updMa f).mc = s.mc := rfl
@[simp] theorem State.updMa_ma (f : Arbiter → Arbiter) (s : State) : (s.updMa f).ma = f s.ma := rfl
@[simp] theorem State.updMa_ports (f : Arbiter → Arbiter) (s : State) : (s.updMa f).ports = s.ports := rfl
@[simp] theorem State.updMa_eu (f : Arbiter → Arbiter) (s : State) : (s.updMa f).eu = s.eu := rfl
@[simp] theorem State.updMa_tb (f : Arbiter → Arbiter) (s : State) : (s.updMa f).tb = s.tb := rfl
@[simp] theorem State.updMa_pins (f : Arbiter → Arbiter) (s : State) : (s.updMa f).pins = s.pins := rfl
@[simp] theorem State.updMa_freeIndex (f : Arbiter → Arbiter) (s : State) : (s.updMa f).freeIndex = s.freeIndex := rfl
@[simp] theorem State.updMa_port (f : Arbiter → Arbiter) (s : State) (p : PortId) : (s.updMa f).port p = s.port p := rfl
@[simp] theorem State.updMa_pcfg (f : Arbiter → Arbiter) (s : State) (p : PortId) : (s.updMa f).pcfg p = s.pcfg p := rfl

/-! ### updEu -/

@[simp] theorem State.updEu_pending (f : EventUnit → EventUnit) (s : State) : (s.updEu f).pending = s.pending := rfl
@[simp] theorem State.updEu_held (f : EventUnit → EventUnit) (s : State) : (s.updEu f).held = s.held := rfl
@[simp] theorem State.updEu_hp (f : EventUnit → EventUnit) (s : State) : (s.updEu f).hp = s.hp := rfl
@[simp] theorem State.updEu_sc (f : EventUnit → EventUnit) (s : State) : (s.updEu f).sc = s.sc := rfl
@[simp] theorem State.updEu_mc (f : EventUnit → EventUnit) (s : State) : (s.updEu f).mc = s.mc := rfl
@[simp] theorem State.updEu_ma (f : EventUnit → EventUnit) (s : State) : (s.updEu f).ma = s.ma := rfl
@[simp] theorem State.updEu_ports (f : EventUnit → EventUnit) (s : State) : (s.updEu f).ports = s.ports := rfl
@[simp] theorem State.updEu_eu (f : EventUnit → EventUnit) (s : State) : (s.updEu f).eu = f s.eu := rfl
@[simp] theorem State.updEu_tb (f : EventUnit → EventUnit) (s : State) : (s.updEu f).tb = s.tb := rfl
@[simp] theorem State.updEu_pins (f : EventUnit → EventUnit) (s : State) : (s.updEu f).pins = s.pins := rfl
@[simp] theorem State.updEu_freeIndex (f : EventUnit → EventUnit) (s : State) :
    (s.updEu f).freeIndex = s.freeIndex := rfl
@[simp] theorem State.updEu_port (f : EventUnit → EventUnit) (s : State) (p : PortId) :
    (s.updEu f).port p = s.port p := rfl
@[simp] theorem State.updEu_pcfg (f : EventUnit → EventUnit) (s : State) (p : PortId) :
    (s.updEu f).pcfg p = s.pcfg p := rfl

/-! ### updTb -/

@[simp] theorem State.updTb_pending (f : Timebase → Timebase) (s : State) : (s.updTb f).pending = s.pending := rfl
@[simp] theorem State.updTb_held (f : Timebase → Timebase) (s : State) : (s.updTb f).held = s.held := rfl
@[simp] theorem State.updTb_hp (f : Timebase → Timebase) (s : State) : (s.updTb f).hp = s.hp := rfl
@[simp] theorem State.updTb_sc (f : Timebase → Timebase) (s : State) : (s.updTb f).sc = s.sc := rfl
@[simp] theorem State.updTb_mc (f : Timebase → Timebase) (s : State) : (s.updTb f).mc = s.mc := rfl
@[simp] theorem State.updTb_ma (f : Timebase → Timebase) (s : State) : (s.updTb f).ma = s.ma := rfl
@[simp] theorem State.updTb_ports (f : Timebase → Timebase) (s : State) : (s.updTb f).ports = s.ports := rfl
@[simp] theorem State.updTb_eu (f : Timebase → Timebase) (s : State) : (s.updTb f).eu = s.eu := rfl
@[simp] theorem State.updTb_tb (f : Timebase → Timebase) (s : State) : (s.updTb f).tb = f s.tb := rfl
@[simp] theorem State.updTb_pins (f : Timebase → Timebase) (s : State) : (s.updTb f).pins = s.pins := rfl
@[simp] theorem State.updTb_freeIndex (f : Timebase → Timebase) (s : State) : (s.updTb f).freeIndex = s.freeIndex := rfl
@[simp] theorem State.updTb_port (f : Timebase → Timebase) (s : State) (p : PortId) :
    (s.updTb f).port p = s.port p := rfl
@[simp] theorem State.updTb_pcfg (f : Timebase → Timebase) (s : State) (p : PortId) :
    (s.updTb f).pcfg p = s.pcfg p := rfl

/-! ### updSeq -/

@[simp] theorem State.updSeq_pending (f : Sequencer → Sequencer) (s : State) : (s.updSeq f).pending = s.pending := rfl
@[simp] theorem State.updSeq_held (f : Sequencer → Sequencer) (s : State) : (s.updSeq f).held = s.held := rfl
@[simp] theorem State.updSeq_hp (f : Sequencer → Sequencer) (s : State) :
    (s.updSeq f).hp = { s.hp with seq := f s.hp.seq } := rfl
@[simp] theorem State.updSeq_sc (f : Sequencer → Sequencer) (s : State) : (s.updSeq f).sc = s.sc := rfl
@[simp] theorem State.updSeq_mc (f : Sequencer → Sequencer) (s : State) : (s.updSeq f).mc = s.mc := rfl
@[simp] theorem State.updSeq_ma (f : Sequencer → Sequencer) (s : State) : (s.updSeq f).ma = s.ma := rfl
@[simp] theorem State.updSeq_ports (f : Sequencer → Sequencer) (s : State) : (s.updSeq f).ports = s.ports := rfl
@[simp] theorem State.updSeq_eu (f : Sequencer → Sequencer) (s : State) : (s.updSeq f).eu = s.eu := rfl
@[simp] theorem State.updSeq_tb (f : Sequencer → Sequencer) (s : State) : (s.updSeq f).tb = s.tb := rfl
@[simp] theorem State.updSeq_pins (f : Sequencer → Sequencer) (s : State) : (s.updSeq f).pins = s.pins := rfl
@[simp] theorem State.updSeq_freeIndex (f : Sequencer → Sequencer) (s : State) :
    (s.updSeq f).freeIndex = s.freeIndex := rfl
@[simp] theorem State.updSeq_port (f : Sequencer → Sequencer) (s : State) (p : PortId) :
    (s.updSeq f).port p = s.port p := rfl
@[simp] theorem State.updSeq_pcfg (f : Sequencer → Sequencer) (s : State) (p : PortId) :
    (s.updSeq f).pcfg p = s.pcfg p := rfl

/-! ### updWin -/

@[simp] theorem State.updWin_pending (f : Window → Window) (s : State) : (s.updWin f).pending = s.pending := rfl
@[simp] theorem State.updWin_held (f : Window → Window) (s : State) : (s.updWin f).held = s.held := rfl
@[simp] theorem State.updWin_hp (f : Window → Window) (s : State) :
    (s.updWin f).hp = { s.hp with win := f s.hp.win } := rfl
@[simp] theorem State.updWin_sc (f : Window → Window) (s : State) : (s.updWin f).sc = s.sc := rfl
@[simp] theorem State.updWin_mc (f : Window → Window) (s : State) : (s.updWin f).mc = s.mc := rfl
@[simp] theorem State.updWin_ma (f : Window → Window) (s : State) : (s.updWin f).ma = s.ma := rfl
@[simp] theorem State.updWin_ports (f : Window → Window) (s : State) : (s.updWin f).ports = s.ports := rfl
@[simp] theorem State.updWin_eu (f : Window → Window) (s : State) : (s.updWin f).eu = s.eu := rfl
@[simp] theorem State.updWin_tb (f : Window → Window) (s : State) : (s.updWin f).tb = s.tb := rfl
@[simp] theorem State.updWin_pins (f : Window → Window) (s : State) : (s.updWin f).pins = s.pins := rfl
@[simp] theorem State.updWin_freeIndex (f : Window → Window) (s : State) : (s.updWin f).freeIndex = s.freeIndex := rfl
@[simp] theorem State.updWin_port (f : Window → Window) (s : State) (p : PortId) : (s.updWin f).port p = s.port p := rfl
@[simp] theorem State.updWin_pcfg (f : Window → Window) (s : State) (p : PortId) : (s.updWin f).pcfg p = s.pcfg p := rfl

/-! ### updPort -/

@[simp] theorem State.updPort_pending (p : PortId) (f : Port → Port) (s : State) :
    (s.updPort p f).pending = s.pending := rfl
@[simp] theorem State.updPort_held (p : PortId) (f : Port → Port) (s : State) :
    (s.updPort p f).held = s.held := rfl
@[simp] theorem State.updPort_hp (p : PortId) (f : Port → Port) (s : State) :
    (s.updPort p f).hp = s.hp := rfl
@[simp] theorem State.updPort_sc (p : PortId) (f : Port → Port) (s : State) :
    (s.updPort p f).sc = s.sc := rfl
@[simp] theorem State.updPort_mc (p : PortId) (f : Port → Port) (s : State) :
    (s.updPort p f).mc = s.mc := rfl
@[simp] theorem State.updPort_ma (p : PortId) (f : Port → Port) (s : State) :
    (s.updPort p f).ma = s.ma := rfl
@[simp] theorem State.updPort_ports (p : PortId) (f : Port → Port) (s : State) :
    (s.updPort p f).ports = s.ports.set p (f (s.port p)) := rfl
@[simp] theorem State.updPort_eu (p : PortId) (f : Port → Port) (s : State) :
    (s.updPort p f).eu = s.eu := rfl
@[simp] theorem State.updPort_tb (p : PortId) (f : Port → Port) (s : State) :
    (s.updPort p f).tb = s.tb := rfl
@[simp] theorem State.updPort_pins (p : PortId) (f : Port → Port) (s : State) :
    (s.updPort p f).pins = s.pins := rfl
@[simp] theorem State.updPort_freeIndex (p : PortId) (f : Port → Port) (s : State) :
    (s.updPort p f).freeIndex = s.freeIndex := rfl
@[simp] theorem State.updPort_pcfg (p r : PortId) (f : Port → Port) (s : State) :
    (s.updPort p f).pcfg r = s.pcfg r := rfl
@[simp] theorem State.updPort_port_self (p : PortId) (f : Port → Port) (s : State) :
    (s.updPort p f).port p = f (s.port p) := by simp [State.port]
@[simp] theorem State.updPort_port_ne (f : Port → Port) (s : State) {p r : PortId} (h : r ≠ p) :
    (s.updPort p f).port r = s.port r := by simp [State.port, h]
theorem State.updPort_port (p r : PortId) (f : Port → Port) (s : State) :
    (s.updPort p f).port r = if r = p then f (s.port p) else s.port r := by
  simp [State.port, Quad.get_set]

/-! ### Reading a port of a rebuilt state -/

@[simp] theorem State.get_ports (s : State) (p : PortId) : s.ports.get p = s.port p := rfl
@[simp] theorem State.get_cfg_ports (s : State) (p : PortId) : s.sc.cfg.ports.get p = s.pcfg p := rfl
@[simp] theorem State.mk_port (pd : List Instr) (h : Option ResetCause) (hp : HostPort) (sc : Setup) (mc : MemCtl)
    (ma : Arbiter) (q : Quad Port) (eu : EventUnit) (tb : Timebase) (pins : Pins) (n : Nat) (p : PortId) :
    (State.mk pd h hp sc mc ma q eu tb pins n).port p = q.get p := rfl
@[simp] theorem State.mk_pcfg (pd : List Instr) (h : Option ResetCause) (hp : HostPort) (sc : Setup) (mc : MemCtl)
    (ma : Arbiter) (q : Quad Port) (eu : EventUnit) (tb : Timebase) (pins : Pins) (n : Nat) (p : PortId) :
    (State.mk pd h hp sc mc ma q eu tb pins n).pcfg p = sc.cfg.ports.get p := rfl

/-! ### Equality field by field -/

theorem State.eq_of_fields {s t : State} (h1 : s.pending = t.pending) (h2 : s.held = t.held) (h3 : s.hp = t.hp)
    (h4 : s.sc = t.sc) (h5 : s.mc = t.mc) (h6 : s.ma = t.ma) (h7 : s.ports = t.ports) (h8 : s.eu = t.eu)
    (h9 : s.tb = t.tb) (h10 : s.pins = t.pins) (h11 : s.freeIndex = t.freeIndex) : s = t := by
  cases s
  cases t
  simp_all

end Sys2Proof.Machine
end

