-- ==== Sys2Proof/Laws/Ops.lean ====
section
/-! SUPPORT. For each shared operation, what it leaves unchanged, and the same operation in the words of Safety.lean. -/

namespace Sys2Proof.Laws

open Sys2Proof.Machine Sys2Proof.Safety


/-! ### Single updates: true by definition -/

@[simp] theorem post_pending (r : Report) (s : State) : (post r s).pending = s.pending := rfl
@[simp] theorem post_held (r : Report) (s : State) : (post r s).held = s.held := rfl
@[simp] theorem post_hp (r : Report) (s : State) : (post r s).hp = s.hp := rfl
@[simp] theorem post_sc (r : Report) (s : State) : (post r s).sc = s.sc := rfl
@[simp] theorem post_mc (r : Report) (s : State) : (post r s).mc = s.mc := rfl
@[simp] theorem post_ma (r : Report) (s : State) : (post r s).ma = s.ma := rfl
@[simp] theorem post_ports (r : Report) (s : State) : (post r s).ports = s.ports := rfl
@[simp] theorem post_tb (r : Report) (s : State) : (post r s).tb = s.tb := rfl
@[simp] theorem post_pins (r : Report) (s : State) : (post r s).pins = s.pins := rfl
@[simp] theorem post_freeIndex (r : Report) (s : State) : (post r s).freeIndex = s.freeIndex := rfl
@[simp] theorem post_port (r : Report) (s : State) (i : PortId) : (post r s).port i = s.port i := rfl
@[simp] theorem post_pcfg (r : Report) (s : State) (i : PortId) : (post r s).pcfg i = s.pcfg i := rfl
@[simp] theorem setSummary_pending (b : BitVec 8) (s : State) : (setSummary b s).pending = s.pending := rfl
@[simp] theorem setSummary_held (b : BitVec 8) (s : State) : (setSummary b s).held = s.held := rfl
@[simp] theorem setSummary_hp (b : BitVec 8) (s : State) : (setSummary b s).hp = s.hp := rfl
@[simp] theorem setSummary_sc (b : BitVec 8) (s : State) : (setSummary b s).sc = s.sc := rfl
@[simp] theorem setSummary_mc (b : BitVec 8) (s : State) : (setSummary b s).mc = s.mc := rfl
@[simp] theorem setSummary_ma (b : BitVec 8) (s : State) : (setSummary b s).ma = s.ma := rfl
@[simp] theorem setSummary_ports (b : BitVec 8) (s : State) : (setSummary b s).ports = s.ports := rfl
@[simp] theorem setSummary_tb (b : BitVec 8) (s : State) : (setSummary b s).tb = s.tb := rfl
@[simp] theorem setSummary_pins (b : BitVec 8) (s : State) : (setSummary b s).pins = s.pins := rfl
@[simp] theorem setSummary_freeIndex (b : BitVec 8) (s : State) : (setSummary b s).freeIndex = s.freeIndex := rfl
@[simp] theorem setSummary_port (b : BitVec 8) (s : State) (i : PortId) : (setSummary b s).port i = s.port i := rfl
@[simp] theorem setSummary_pcfg (b : BitVec 8) (s : State) (i : PortId) : (setSummary b s).pcfg i = s.pcfg i := rfl
@[simp] theorem finish_pending (r : Result) (q : Words4) (s : State) : (finish r q s).pending = s.pending := rfl
@[simp] theorem finish_held (r : Result) (q : Words4) (s : State) : (finish r q s).held = s.held := rfl
@[simp] theorem finish_sc (r : Result) (q : Words4) (s : State) : (finish r q s).sc = s.sc := rfl
@[simp] theorem finish_mc (r : Result) (q : Words4) (s : State) : (finish r q s).mc = s.mc := rfl
@[simp] theorem finish_ma (r : Result) (q : Words4) (s : State) : (finish r q s).ma = s.ma := rfl
@[simp] theorem finish_ports (r : Result) (q : Words4) (s : State) : (finish r q s).ports = s.ports := rfl
@[simp] theorem finish_tb (r : Result) (q : Words4) (s : State) : (finish r q s).tb = s.tb := rfl
@[simp] theorem finish_pins (r : Result) (q : Words4) (s : State) : (finish r q s).pins = s.pins := rfl
@[simp] theorem finish_freeIndex (r : Result) (q : Words4) (s : State) : (finish r q s).freeIndex = s.freeIndex := rfl
@[simp] theorem finish_port (r : Result) (q : Words4) (s : State) (i : PortId) : (finish r q s).port i = s.port i := rfl
@[simp] theorem finish_pcfg (r : Result) (q : Words4) (s : State) (i : PortId) : (finish r q s).pcfg i = s.pcfg i := rfl
@[simp] theorem started_pending (c : Byte) (p : PortId) (s : State) : (started c p s).pending = s.pending := rfl
@[simp] theorem started_held (c : Byte) (p : PortId) (s : State) : (started c p s).held = s.held := rfl
@[simp] theorem started_sc (c : Byte) (p : PortId) (s : State) : (started c p s).sc = s.sc := rfl
@[simp] theorem started_mc (c : Byte) (p : PortId) (s : State) : (started c p s).mc = s.mc := rfl
@[simp] theorem started_ma (c : Byte) (p : PortId) (s : State) : (started c p s).ma = s.ma := rfl
@[simp] theorem started_ports (c : Byte) (p : PortId) (s : State) : (started c p s).ports = s.ports := rfl
@[simp] theorem started_eu (c : Byte) (p : PortId) (s : State) : (started c p s).eu = s.eu := rfl
@[simp] theorem started_tb (c : Byte) (p : PortId) (s : State) : (started c p s).tb = s.tb := rfl
@[simp] theorem started_pins (c : Byte) (p : PortId) (s : State) : (started c p s).pins = s.pins := rfl
@[simp] theorem started_freeIndex (c : Byte) (p : PortId) (s : State) : (started c p s).freeIndex = s.freeIndex := rfl
@[simp] theorem started_port (c : Byte) (p : PortId) (s : State) (i : PortId) : (started c p s).port i = s.port i := rfl
@[simp] theorem started_pcfg (c : Byte) (p : PortId) (s : State) (i : PortId) : (started c p s).pcfg i = s.pcfg i := rfl
@[simp] theorem ended_pending (r : Result) (q : Words4) (s : State) : (ended r q s).pending = s.pending := rfl
@[simp] theorem ended_held (r : Result) (q : Words4) (s : State) : (ended r q s).held = s.held := rfl
@[simp] theorem ended_sc (r : Result) (q : Words4) (s : State) : (ended r q s).sc = s.sc := rfl
@[simp] theorem ended_mc (r : Result) (q : Words4) (s : State) : (ended r q s).mc = s.mc := rfl
@[simp] theorem ended_ma (r : Result) (q : Words4) (s : State) : (ended r q s).ma = s.ma := rfl
@[simp] theorem ended_ports (r : Result) (q : Words4) (s : State) : (ended r q s).ports = s.ports := rfl
@[simp] theorem ended_tb (r : Result) (q : Words4) (s : State) : (ended r q s).tb = s.tb := rfl
@[simp] theorem ended_pins (r : Result) (q : Words4) (s : State) : (ended r q s).pins = s.pins := rfl
@[simp] theorem ended_freeIndex (r : Result) (q : Words4) (s : State) : (ended r q s).freeIndex = s.freeIndex := rfl
@[simp] theorem ended_port (r : Result) (q : Words4) (s : State) (i : PortId) : (ended r q s).port i = s.port i := rfl
@[simp] theorem ended_pcfg (r : Result) (q : Words4) (s : State) (i : PortId) : (ended r q s).pcfg i = s.pcfg i := rfl
@[simp] theorem busy_pending (r : Running) (s : State) : (busy r s).pending = s.pending := rfl
@[simp] theorem busy_held (r : Running) (s : State) : (busy r s).held = s.held := rfl
@[simp] theorem busy_sc (r : Running) (s : State) : (busy r s).sc = s.sc := rfl
@[simp] theorem busy_mc (r : Running) (s : State) : (busy r s).mc = s.mc := rfl
@[simp] theorem busy_ma (r : Running) (s : State) : (busy r s).ma = s.ma := rfl
@[simp] theorem busy_ports (r : Running) (s : State) : (busy r s).ports = s.ports := rfl
@[simp] theorem busy_eu (r : Running) (s : State) : (busy r s).eu = s.eu := rfl
@[simp] theorem busy_tb (r : Running) (s : State) : (busy r s).tb = s.tb := rfl
@[simp] theorem busy_pins (r : Running) (s : State) : (busy r s).pins = s.pins := rfl
@[simp] theorem busy_freeIndex (r : Running) (s : State) : (busy r s).freeIndex = s.freeIndex := rfl
@[simp] theorem busy_port (r : Running) (s : State) (i : PortId) : (busy r s).port i = s.port i := rfl
@[simp] theorem busy_pcfg (r : Running) (s : State) (i : PortId) : (busy r s).pcfg i = s.pcfg i := rfl
@[simp] theorem withPort_pending (p : PortId) (x : Port) (s : State) : (withPort p x s).pending = s.pending := rfl
@[simp] theorem withPort_held (p : PortId) (x : Port) (s : State) : (withPort p x s).held = s.held := rfl
@[simp] theorem withPort_hp (p : PortId) (x : Port) (s : State) : (withPort p x s).hp = s.hp := rfl
@[simp] theorem withPort_sc (p : PortId) (x : Port) (s : State) : (withPort p x s).sc = s.sc := rfl
@[simp] theorem withPort_mc (p : PortId) (x : Port) (s : State) : (withPort p x s).mc = s.mc := rfl
@[simp] theorem withPort_ma (p : PortId) (x : Port) (s : State) : (withPort p x s).ma = s.ma := rfl
@[simp] theorem withPort_eu (p : PortId) (x : Port) (s : State) : (withPort p x s).eu = s.eu := rfl
@[simp] theorem withPort_tb (p : PortId) (x : Port) (s : State) : (withPort p x s).tb = s.tb := rfl
@[simp] theorem withPort_pins (p : PortId) (x : Port) (s : State) : (withPort p x s).pins = s.pins := rfl
@[simp] theorem withPort_freeIndex (p : PortId) (x : Port) (s : State) : (withPort p x s).freeIndex = s.freeIndex := rfl
@[simp] theorem withPort_pcfg (p : PortId) (x : Port) (s : State) (i : PortId) :
    (withPort p x s).pcfg i = s.pcfg i := rfl
@[simp] theorem orphanFlight_pending (p : PortId) (s : State) : (orphanFlight p s).pending = s.pending := rfl
@[simp] theorem orphanFlight_held (p : PortId) (s : State) : (orphanFlight p s).held = s.held := rfl
@[simp] theorem orphanFlight_hp (p : PortId) (s : State) : (orphanFlight p s).hp = s.hp := rfl
@[simp] theorem orphanFlight_sc (p : PortId) (s : State) : (orphanFlight p s).sc = s.sc := rfl
@[simp] theorem orphanFlight_ma (p : PortId) (s : State) : (orphanFlight p s).ma = s.ma := rfl
@[simp] theorem orphanFlight_ports (p : PortId) (s : State) : (orphanFlight p s).ports = s.ports := rfl
@[simp] theorem orphanFlight_eu (p : PortId) (s : State) : (orphanFlight p s).eu = s.eu := rfl
@[simp] theorem orphanFlight_tb (p : PortId) (s : State) : (orphanFlight p s).tb = s.tb := rfl
@[simp] theorem orphanFlight_pins (p : PortId) (s : State) : (orphanFlight p s).pins = s.pins := rfl
@[simp] theorem orphanFlight_freeIndex (p : PortId) (s : State) : (orphanFlight p s).freeIndex = s.freeIndex := rfl
@[simp] theorem orphanFlight_port (p : PortId) (s : State) (i : PortId) : (orphanFlight p s).port i = s.port i := rfl
@[simp] theorem orphanFlight_pcfg (p : PortId) (s : State) (i : PortId) : (orphanFlight p s).pcfg i = s.pcfg i := rfl
@[simp] theorem openFairness_pending (p : PortId) (s : State) : (openFairness p s).pending = s.pending := rfl
@[simp] theorem openFairness_held (p : PortId) (s : State) : (openFairness p s).held = s.held := rfl
@[simp] theorem openFairness_hp (p : PortId) (s : State) : (openFairness p s).hp = s.hp := rfl
@[simp] theorem openFairness_sc (p : PortId) (s : State) : (openFairness p s).sc = s.sc := rfl
@[simp] theorem openFairness_mc (p : PortId) (s : State) : (openFairness p s).mc = s.mc := rfl
@[simp] theorem openFairness_ports (p : PortId) (s : State) : (openFairness p s).ports = s.ports := rfl
@[simp] theorem openFairness_eu (p : PortId) (s : State) : (openFairness p s).eu = s.eu := rfl
@[simp] theorem openFairness_tb (p : PortId) (s : State) : (openFairness p s).tb = s.tb := rfl
@[simp] theorem openFairness_pins (p : PortId) (s : State) : (openFairness p s).pins = s.pins := rfl
@[simp] theorem openFairness_freeIndex (p : PortId) (s : State) : (openFairness p s).freeIndex = s.freeIndex := rfl
@[simp] theorem openFairness_port (p : PortId) (s : State) (i : PortId) : (openFairness p s).port i = s.port i := rfl
@[simp] theorem openFairness_pcfg (p : PortId) (s : State) (i : PortId) : (openFairness p s).pcfg i = s.pcfg i := rfl
@[simp] theorem discardLatch_pending (s : State) : (discardLatch s).pending = s.pending := rfl
@[simp] theorem discardLatch_held (s : State) : (discardLatch s).held = s.held := rfl
@[simp] theorem discardLatch_sc (s : State) : (discardLatch s).sc = s.sc := rfl
@[simp] theorem discardLatch_ma (s : State) : (discardLatch s).ma = s.ma := rfl
@[simp] theorem discardLatch_ports (s : State) : (discardLatch s).ports = s.ports := rfl
@[simp] theorem discardLatch_eu (s : State) : (discardLatch s).eu = s.eu := rfl
@[simp] theorem discardLatch_tb (s : State) : (discardLatch s).tb = s.tb := rfl
@[simp] theorem discardLatch_pins (s : State) : (discardLatch s).pins = s.pins := rfl
@[simp] theorem discardLatch_freeIndex (s : State) : (discardLatch s).freeIndex = s.freeIndex := rfl
@[simp] theorem discardLatch_port (s : State) (i : PortId) : (discardLatch s).port i = s.port i := rfl
@[simp] theorem discardLatch_pcfg (s : State) (i : PortId) : (discardLatch s).pcfg i = s.pcfg i := rfl
@[simp] theorem writeMemory_pending (a : Nat) (ws : List Word) (s : State) :
    (writeMemory a ws s).pending = s.pending := rfl
@[simp] theorem writeMemory_held (a : Nat) (ws : List Word) (s : State) : (writeMemory a ws s).held = s.held := rfl
@[simp] theorem writeMemory_hp (a : Nat) (ws : List Word) (s : State) : (writeMemory a ws s).hp = s.hp := rfl
@[simp] theorem writeMemory_sc (a : Nat) (ws : List Word) (s : State) : (writeMemory a ws s).sc = s.sc := rfl
@[simp] theorem writeMemory_ma (a : Nat) (ws : List Word) (s : State) : (writeMemory a ws s).ma = s.ma := rfl
@[simp] theorem writeMemory_ports (a : Nat) (ws : List Word) (s : State) : (writeMemory a ws s).ports = s.ports := rfl
@[simp] theorem writeMemory_eu (a : Nat) (ws : List Word) (s : State) : (writeMemory a ws s).eu = s.eu := rfl
@[simp] theorem writeMemory_tb (a : Nat) (ws : List Word) (s : State) : (writeMemory a ws s).tb = s.tb := rfl
@[simp] theorem writeMemory_pins (a : Nat) (ws : List Word) (s : State) : (writeMemory a ws s).pins = s.pins := rfl
@[simp] theorem writeMemory_freeIndex (a : Nat) (ws : List Word) (s : State) :
    (writeMemory a ws s).freeIndex = s.freeIndex := rfl
@[simp] theorem writeMemory_port (a : Nat) (ws : List Word) (s : State) (i : PortId) :
    (writeMemory a ws s).port i = s.port i := rfl
@[simp] theorem writeMemory_pcfg (a : Nat) (ws : List Word) (s : State) (i : PortId) :
    (writeMemory a ws s).pcfg i = s.pcfg i := rfl
@[simp] theorem countReads_pending (n : Nat) (s : State) : (countReads n s).pending = s.pending := rfl
@[simp] theorem countReads_held (n : Nat) (s : State) : (countReads n s).held = s.held := rfl
@[simp] theorem countReads_hp (n : Nat) (s : State) : (countReads n s).hp = s.hp := rfl
@[simp] theorem countReads_sc (n : Nat) (s : State) : (countReads n s).sc = s.sc := rfl
@[simp] theorem countReads_mc (n : Nat) (s : State) : (countReads n s).mc = s.mc := rfl
@[simp] theorem countReads_ma (n : Nat) (s : State) : (countReads n s).ma = s.ma := rfl
@[simp] theorem countReads_ports (n : Nat) (s : State) : (countReads n s).ports = s.ports := rfl
@[simp] theorem countReads_eu (n : Nat) (s : State) : (countReads n s).eu = s.eu := rfl
@[simp] theorem countReads_tb (n : Nat) (s : State) : (countReads n s).tb = s.tb := rfl
@[simp] theorem countReads_pins (n : Nat) (s : State) : (countReads n s).pins = s.pins := rfl
@[simp] theorem countReads_port (n : Nat) (s : State) (i : PortId) : (countReads n s).port i = s.port i := rfl
@[simp] theorem countReads_pcfg (n : Nat) (s : State) (i : PortId) : (countReads n s).pcfg i = s.pcfg i := rfl
@[simp] theorem setWinError_pending (b : BitVec 7) (s : State) : (setWinError b s).pending = s.pending := rfl
@[simp] theorem setWinError_held (b : BitVec 7) (s : State) : (setWinError b s).held = s.held := rfl
@[simp] theorem setWinError_sc (b : BitVec 7) (s : State) : (setWinError b s).sc = s.sc := rfl
@[simp] theorem setWinError_mc (b : BitVec 7) (s : State) : (setWinError b s).mc = s.mc := rfl
@[simp] theorem setWinError_ma (b : BitVec 7) (s : State) : (setWinError b s).ma = s.ma := rfl
@[simp] theorem setWinError_ports (b : BitVec 7) (s : State) : (setWinError b s).ports = s.ports := rfl
@[simp] theorem setWinError_eu (b : BitVec 7) (s : State) : (setWinError b s).eu = s.eu := rfl
@[simp] theorem setWinError_tb (b : BitVec 7) (s : State) : (setWinError b s).tb = s.tb := rfl
@[simp] theorem setWinError_pins (b : BitVec 7) (s : State) : (setWinError b s).pins = s.pins := rfl
@[simp] theorem setWinError_freeIndex (b : BitVec 7) (s : State) : (setWinError b s).freeIndex = s.freeIndex := rfl
@[simp] theorem setWinError_port (b : BitVec 7) (s : State) (i : PortId) : (setWinError b s).port i = s.port i := rfl
@[simp] theorem setWinError_pcfg (b : BitVec 7) (s : State) (i : PortId) : (setWinError b s).pcfg i = s.pcfg i := rfl
@[simp] theorem enterClosed_pending (p : PortId) (d : Detail) (n : Nat) (s : State) :
    (enterClosed p d n s).pending = s.pending := rfl
@[simp] theorem enterClosed_held (p : PortId) (d : Detail) (n : Nat) (s : State) :
    (enterClosed p d n s).held = s.held := rfl
@[simp] theorem enterClosed_hp (p : PortId) (d : Detail) (n : Nat) (s : State) : (enterClosed p d n s).hp = s.hp := rfl
@[simp] theorem enterClosed_sc (p : PortId) (d : Detail) (n : Nat) (s : State) : (enterClosed p d n s).sc = s.sc := rfl
@[simp] theorem enterClosed_mc (p : PortId) (d : Detail) (n : Nat) (s : State) : (enterClosed p d n s).mc = s.mc := rfl
@[simp] theorem enterClosed_tb (p : PortId) (d : Detail) (n : Nat) (s : State) : (enterClosed p d n s).tb = s.tb := rfl
@[simp] theorem enterClosed_pins (p : PortId) (d : Detail) (n : Nat) (s : State) :
    (enterClosed p d n s).pins = s.pins := rfl
@[simp] theorem enterClosed_freeIndex (p : PortId) (d : Detail) (n : Nat) (s : State) :
    (enterClosed p d n s).freeIndex = s.freeIndex := rfl
@[simp] theorem enterClosed_pcfg (p : PortId) (d : Detail) (n : Nat) (s : State) (i : PortId) :
    (enterClosed p d n s).pcfg i = s.pcfg i := rfl
@[simp] theorem shut_pending (p : PortId) (d : Detail) (n : Nat) (s : State) : (shut p d n s).pending = s.pending := rfl
@[simp] theorem shut_held (p : PortId) (d : Detail) (n : Nat) (s : State) : (shut p d n s).held = s.held := rfl
@[simp] theorem shut_hp (p : PortId) (d : Detail) (n : Nat) (s : State) : (shut p d n s).hp = s.hp := rfl
@[simp] theorem shut_sc (p : PortId) (d : Detail) (n : Nat) (s : State) : (shut p d n s).sc = s.sc := rfl
@[simp] theorem shut_mc (p : PortId) (d : Detail) (n : Nat) (s : State) : (shut p d n s).mc = s.mc := rfl
@[simp] theorem shut_tb (p : PortId) (d : Detail) (n : Nat) (s : State) : (shut p d n s).tb = s.tb := rfl
@[simp] theorem shut_pins (p : PortId) (d : Detail) (n : Nat) (s : State) : (shut p d n s).pins = s.pins := rfl
@[simp] theorem shut_freeIndex (p : PortId) (d : Detail) (n : Nat) (s : State) :
    (shut p d n s).freeIndex = s.freeIndex := rfl
@[simp] theorem shut_pcfg (p : PortId) (d : Detail) (n : Nat) (s : State) (i : PortId) :
    (shut p d n s).pcfg i = s.pcfg i := rfl
@[simp] theorem settle_pending (s : State) : (settle s).pending = s.pending := rfl
@[simp] theorem settle_held (s : State) : (settle s).held = s.held := rfl
@[simp] theorem settle_hp (s : State) : (settle s).hp = s.hp := rfl
@[simp] theorem settle_sc (s : State) : (settle s).sc = s.sc := rfl
@[simp] theorem settle_mc (s : State) : (settle s).mc = s.mc := rfl
@[simp] theorem settle_ma (s : State) : (settle s).ma = s.ma := rfl
@[simp] theorem settle_eu (s : State) : (settle s).eu = s.eu := rfl
@[simp] theorem settle_tb (s : State) : (settle s).tb = s.tb := rfl
@[simp] theorem settle_freeIndex (s : State) : (settle s).freeIndex = s.freeIndex := rfl
@[simp] theorem settle_pcfg (s : State) (i : PortId) : (settle s).pcfg i = s.pcfg i := rfl
@[simp] theorem settlePorts_pending (s : State) : (settlePorts s).pending = s.pending := rfl
@[simp] theorem settlePorts_held (s : State) : (settlePorts s).held = s.held := rfl
@[simp] theorem settlePorts_hp (s : State) : (settlePorts s).hp = s.hp := rfl
@[simp] theorem settlePorts_sc (s : State) : (settlePorts s).sc = s.sc := rfl
@[simp] theorem settlePorts_mc (s : State) : (settlePorts s).mc = s.mc := rfl
@[simp] theorem settlePorts_ma (s : State) : (settlePorts s).ma = s.ma := rfl
@[simp] theorem settlePorts_eu (s : State) : (settlePorts s).eu = s.eu := rfl
@[simp] theorem settlePorts_tb (s : State) : (settlePorts s).tb = s.tb := rfl
@[simp] theorem settlePorts_pins (s : State) : (settlePorts s).pins = s.pins := rfl
@[simp] theorem settlePorts_freeIndex (s : State) : (settlePorts s).freeIndex = s.freeIndex := rfl
@[simp] theorem settlePorts_pcfg (s : State) (i : PortId) : (settlePorts s).pcfg i = s.pcfg i := rfl

@[simp] theorem started_win (c : Byte) (p : PortId) (s : State) : (started c p s).hp.win = s.hp.win := rfl
@[simp] theorem started_args (c : Byte) (p : PortId) (s : State) : (started c p s).hp.seq.args = s.hp.seq.args := rfl
@[simp] theorem started_running (c : Byte) (p : PortId) (s : State) :
    (started c p s).hp.seq.running = s.hp.seq.running := rfl
@[simp] theorem started_latched (c : Byte) (p : PortId) (s : State) :
    (started c p s).hp.seq.latched = { code := c, port := p, args := s.hp.seq.args } := rfl
@[simp] theorem withPort_port_self (p : PortId) (x : Port) (s : State) : (withPort p x s).port p = x := by
  simp [withPort]
@[simp] theorem withPort_port_ne (x : Port) (s : State) {p q : PortId} (h : q ≠ p) :
    (withPort p x s).port q = s.port q := by simp [withPort, h]
@[simp] theorem settlePorts_port (s : State) (p : PortId) :
    (settlePorts s).port p = settlePort (s.pcfg p) (abortWaits s p) (s.port p) := by simp [settlePorts]
@[simp] theorem settle_port (s : State) (p : PortId) :
    (settle s).port p = settlePort (s.pcfg p) (abortWaits s p) (s.port p) := settlePorts_port s p

/-! ### Posting several records -/

@[simp] theorem postAll_pending (rs : List Report) (s : State) : (postAll rs s).pending = s.pending := by
  induction rs generalizing s with
  | nil => rfl
  | cons r rs ih => exact ih (post r s)
@[simp] theorem postAll_held (rs : List Report) (s : State) : (postAll rs s).held = s.held := by
  induction rs generalizing s with
  | nil => rfl
  | cons r rs ih => exact ih (post r s)
@[simp] theorem postAll_hp (rs : List Report) (s : State) : (postAll rs s).hp = s.hp := by
  induction rs generalizing s with
  | nil => rfl
  | cons r rs ih => exact ih (post r s)
@[simp] theorem postAll_sc (rs : List Report) (s : State) : (postAll rs s).sc = s.sc := by
  induction rs generalizing s with
  | nil => rfl
  | cons r rs ih => exact ih (post r s)
@[simp] theorem postAll_mc (rs : List Report) (s : State) : (postAll rs s).mc = s.mc := by
  induction rs generalizing s with
  | nil => rfl
  | cons r rs ih => exact ih (post r s)
@[simp] theorem postAll_ma (rs : List Report) (s : State) : (postAll rs s).ma = s.ma := by
  induction rs generalizing s with
  | nil => rfl
  | cons r rs ih => exact ih (post r s)
@[simp] theorem postAll_ports (rs : List Report) (s : State) : (postAll rs s).ports = s.ports := by
  induction rs generalizing s with
  | nil => rfl
  | cons r rs ih => exact ih (post r s)
@[simp] theorem postAll_tb (rs : List Report) (s : State) : (postAll rs s).tb = s.tb := by
  induction rs generalizing s with
  | nil => rfl
  | cons r rs ih => exact ih (post r s)
@[simp] theorem postAll_pins (rs : List Report) (s : State) : (postAll rs s).pins = s.pins := by
  induction rs generalizing s with
  | nil => rfl
  | cons r rs ih => exact ih (post r s)
@[simp] theorem postAll_freeIndex (rs : List Report) (s : State) : (postAll rs s).freeIndex = s.freeIndex := by
  induction rs generalizing s with
  | nil => rfl
  | cons r rs ih => exact ih (post r s)
@[simp] theorem postAll_port (rs : List Report) (s : State) (i : PortId) : (postAll rs s).port i = s.port i := by
  induction rs generalizing s with
  | nil => rfl
  | cons r rs ih => exact ih (post r s)
@[simp] theorem postAll_pcfg (rs : List Report) (s : State) (i : PortId) : (postAll rs s).pcfg i = s.pcfg i := by
  induction rs generalizing s with
  | nil => rfl
  | cons r rs ih => exact ih (post r s)

@[simp] theorem postAll_nil (s : State) : postAll [] s = s := rfl
@[simp] theorem postAll_cons (r : Report) (rs : List Report) (s : State) :
    postAll (r :: rs) s = postAll rs (post r s) := rfl

theorem cancelAll_eq_postAll (p : PortId) (d : Detail) (l : List QEntry) (s : State) :
    cancelAll p d l s = postAll (l.map fun e => ⟨.segCancelled, .port p, e.desc.tag, d, 0⟩) s := by
  induction l generalizing s with
  | nil => rfl
  | cons e es ih => exact ih _

theorem endWork_eq_postAll (p : PortId) (how : Ending) (s : State) :
    endWork p how s = postAll (outcomes p how.kind how.detail how.cancelled (s.port p).queue) s := by
  unfold endWork outcomes
  cases (s.port p).queue with
  | nil => rfl
  | cons h t =>
    simp only [cancelAll_eq_postAll, postAll_cons]
    by_cases hp : h.progress = 0 <;> simp [hp, postPort]

@[simp] theorem endWork_pending (p : PortId) (how : Ending) (s : State) : (endWork p how s).pending = s.pending := by
  rw [endWork_eq_postAll]; simp
@[simp] theorem endWork_held (p : PortId) (how : Ending) (s : State) : (endWork p how s).held = s.held := by
  rw [endWork_eq_postAll]; simp
@[simp] theorem endWork_hp (p : PortId) (how : Ending) (s : State) : (endWork p how s).hp = s.hp := by
  rw [endWork_eq_postAll]; simp
@[simp] theorem endWork_sc (p : PortId) (how : Ending) (s : State) : (endWork p how s).sc = s.sc := by
  rw [endWork_eq_postAll]; simp
@[simp] theorem endWork_mc (p : PortId) (how : Ending) (s : State) : (endWork p how s).mc = s.mc := by
  rw [endWork_eq_postAll]; simp
@[simp] theorem endWork_ma (p : PortId) (how : Ending) (s : State) : (endWork p how s).ma = s.ma := by
  rw [endWork_eq_postAll]; simp
@[simp] theorem endWork_ports (p : PortId) (how : Ending) (s : State) : (endWork p how s).ports = s.ports := by
  rw [endWork_eq_postAll]; simp
@[simp] theorem endWork_tb (p : PortId) (how : Ending) (s : State) : (endWork p how s).tb = s.tb := by
  rw [endWork_eq_postAll]; simp
@[simp] theorem endWork_pins (p : PortId) (how : Ending) (s : State) : (endWork p how s).pins = s.pins := by
  rw [endWork_eq_postAll]; simp
@[simp] theorem endWork_freeIndex (p : PortId) (how : Ending) (s : State) :
    (endWork p how s).freeIndex = s.freeIndex := by
  rw [endWork_eq_postAll]; simp
@[simp] theorem endWork_port (p : PortId) (how : Ending) (s : State) (i : PortId) :
    (endWork p how s).port i = s.port i := by
  rw [endWork_eq_postAll]; simp
@[simp] theorem endWork_pcfg (p : PortId) (how : Ending) (s : State) (i : PortId) :
    (endWork p how s).pcfg i = s.pcfg i := by
  rw [endWork_eq_postAll]; simp
@[simp] theorem cancelAll_pending (p : PortId) (d : Detail) (l : List QEntry) (s : State) :
    (cancelAll p d l s).pending = s.pending := by
  rw [cancelAll_eq_postAll]; simp
@[simp] theorem cancelAll_held (p : PortId) (d : Detail) (l : List QEntry) (s : State) :
    (cancelAll p d l s).held = s.held := by
  rw [cancelAll_eq_postAll]; simp
@[simp] theorem cancelAll_hp (p : PortId) (d : Detail) (l : List QEntry) (s : State) :
    (cancelAll p d l s).hp = s.hp := by
  rw [cancelAll_eq_postAll]; simp
@[simp] theorem cancelAll_sc (p : PortId) (d : Detail) (l : List QEntry) (s : State) :
    (cancelAll p d l s).sc = s.sc := by
  rw [cancelAll_eq_postAll]; simp
@[simp] theorem cancelAll_mc (p : PortId) (d : Detail) (l : List QEntry) (s : State) :
    (cancelAll p d l s).mc = s.mc := by
  rw [cancelAll_eq_postAll]; simp
@[simp] theorem cancelAll_ma (p : PortId) (d : Detail) (l : List QEntry) (s : State) :
    (cancelAll p d l s).ma = s.ma := by
  rw [cancelAll_eq_postAll]; simp
@[simp] theorem cancelAll_ports (p : PortId) (d : Detail) (l : List QEntry) (s : State) :
    (cancelAll p d l s).ports = s.ports := by
  rw [cancelAll_eq_postAll]; simp
@[simp] theorem cancelAll_tb (p : PortId) (d : Detail) (l : List QEntry) (s : State) :
    (cancelAll p d l s).tb = s.tb := by
  rw [cancelAll_eq_postAll]; simp
@[simp] theorem cancelAll_pins (p : PortId) (d : Detail) (l : List QEntry) (s : State) :
    (cancelAll p d l s).pins = s.pins := by
  rw [cancelAll_eq_postAll]; simp
@[simp] theorem cancelAll_freeIndex (p : PortId) (d : Detail) (l : List QEntry) (s : State) :
    (cancelAll p d l s).freeIndex = s.freeIndex := by
  rw [cancelAll_eq_postAll]; simp
@[simp] theorem cancelAll_port (p : PortId) (d : Detail) (l : List QEntry) (s : State) (i : PortId) :
    (cancelAll p d l s).port i = s.port i := by
  rw [cancelAll_eq_postAll]; simp
@[simp] theorem cancelAll_pcfg (p : PortId) (d : Detail) (l : List QEntry) (s : State) (i : PortId) :
    (cancelAll p d l s).pcfg i = s.pcfg i := by
  rw [cancelAll_eq_postAll]; simp

/-! ### What becomes of the changed components -/

/-- A record's effect on the Event Unit, which rests on the tick count only (R146, R147). -/
def postEu (stamp : Word) (e : EventUnit) (r : Report) : EventUnit :=
  if e.queue.length < 32 then storeRecord r stamp e else refuseRecord e

@[simp] theorem post_eu (r : Report) (s : State) : (post r s).eu = postEu s.tb.tickCount s.eu r := rfl

@[simp] theorem postAll_eu (rs : List Report) (s : State) :
    (postAll rs s).eu = rs.foldl (postEu s.tb.tickCount) s.eu := by
  induction rs generalizing s with
  | nil => rfl
  | cons r rs ih => exact ih (post r s)

@[simp] theorem setSummary_eu (b : BitVec 8) (s : State) :
    (setSummary b s).eu = { s.eu with summary := s.eu.summary ||| b } := rfl
@[simp] theorem ended_eu (r : Result) (q : Words4) (s : State) :
    (ended r q s).eu = { s.eu with summary := s.eu.summary ||| 0x10 } := rfl
@[simp] theorem ended_hp (r : Result) (q : Words4) (s : State) : (ended r q s).hp =
    { s.hp with seq := { s.hp.seq with running := none, done := true, result := r, res := q } } := rfl
@[simp] theorem busy_hp (r : Running) (s : State) :
    (busy r s).hp = { s.hp with seq := { s.hp.seq with running := some r } } := rfl
@[simp] theorem withPort_ports (p : PortId) (x : Port) (s : State) :
    (withPort p x s).ports = s.ports.set p x := rfl
@[simp] theorem orphanFlight_mc (p : PortId) (s : State) : (orphanFlight p s).mc = { s.mc with
    flight := s.mc.flight.map fun f => if f.who = .port p then { f with orphan := true } else f } := rfl
@[simp] theorem openFairness_ma (p : PortId) (s : State) :
    (openFairness p s).ma = { s.ma with ports := s.ma.ports.set p .opened } := rfl
@[simp] theorem writeMemory_mc (a : Nat) (ws : List Word) (s : State) :
    (writeMemory a ws s).mc = { s.mc with mem := memWrite s.mc.mem a ws } := rfl
@[simp] theorem countReads_freeIndex (n : Nat) (s : State) : (countReads n s).freeIndex = s.freeIndex + n := rfl
@[simp] theorem shut_ma (p : PortId) (d : Detail) (n : Nat) (s : State) :
    (shut p d n s).ma = { s.ma with ports := s.ma.ports.set p .opened } := rfl
@[simp] theorem shut_eu (p : PortId) (d : Detail) (n : Nat) (s : State) :
    (shut p d n s).eu = postEu s.tb.tickCount s.eu ⟨.portClosed, .port p, 0, d, n⟩ := rfl
@[simp] theorem shut_ports (p : PortId) (d : Detail) (n : Nat) (s : State) :
    (shut p d n s).ports = s.ports.set p (s.port p).closed := rfl
@[simp] theorem shut_port_self (p : PortId) (d : Detail) (n : Nat) (s : State) :
    (shut p d n s).port p = (s.port p).closed := Quad.get_set_self _ _ _
@[simp] theorem shut_port_ne (d : Detail) (n : Nat) (s : State) {p q : PortId} (h : q ≠ p) :
    (shut p d n s).port q = s.port q := Quad.get_set_ne _ _ h

/-! ### The machine's operations in the words of the rules -/

theorem finish_eq_ended (r : Result) (q : Words4) (s : State) : finish r q s = ended r q s := rfl

theorem discardLatch_eq_unlatched (s : State) : discardLatch s = unlatched s := rfl

/-- Entry into CLOSED, once the port holds nothing the rules keep but its log and counters. -/
theorem enterClosed_eq_shut (p : PortId) (d : Detail) (n : Nat) (s : State) :
    enterClosed p d n s = shut p d n s := by
  simp [enterClosed, openFairness, shut, postPort, State.updPort, State.updMa, Port.closed]

theorem closeEnd_eq (p : PortId) (s : State) :
    closeEnd p s = shut p .close (s.port p).fifo.length
      (postAll (outcomes p .segShort .close .close (s.port p).queue) s) := by
  simp only [closeEnd, enterClosed_eq_shut, endWork_eq_postAll]
  rfl

theorem abandon_eq (p : PortId) (s : State) :
    abandon p s = shut p .closeIdle (s.port p).fifo.length
      (orphanFlight p (postAll (outcomes p .segShort .closeIdle .close (s.port p).queue) s)) := by
  simp only [abandon, enterClosed_eq_shut, endWork_eq_postAll]
  rfl

theorem stopBlock_emptied (b : StopBlock) : b.emptied = if b = .clear then .clear else .left := by
  cases b <;> rfl

theorem fault_eq_faultState {p : PortId} {s : State} (c : Detail) (h : (s.port p).state.faultable = true) :
    fault p c s = faultState p c s := by
  simp only [fault, h, if_true, faultState, endWork_eq_postAll, postPort]
  rw [show (((orphanFlight p (postAll (outcomes p endFault.kind endFault.detail endFault.cancelled
      (s.port p).queue) s)).updPort p Port.faulted)) = withPort p
      { state := .faulted, drop := (s.port p).drop, fill := (s.port p).fill, marks := (s.port p).marks,
        overwrites := (s.port p).overwrites,
        stopBlock := if (s.port p).stopBlock = .clear then .clear else .left }
      (orphanFlight p (postAll (outcomes p .segAborted .fault .fault (s.port p).queue) s)) from ?_]
  · rfl
  · simp [State.updPort, withPort, Port.faulted, Port.closed, stopBlock_emptied, endFault]

end Sys2Proof.Laws
end

