-- ==== Sys2Proof/Laws/Commands.lean ====
section
/-! SUPPORT. From a host write to a command's own effect: the guards, the latch, the checks, each said once. -/

namespace Sys2Proof.Laws

open Sys2Proof.Machine Sys2Proof.Safety

/-! ### The word of a CMD write -/

theorem cmdWord_getLsbD (h c : Byte) (i : Nat) :
    (cmdWord h c).getLsbD i = if i < 8 then c.getLsbD i else h.getLsbD (i - 8) := BitVec.getLsbD_append

@[simp] theorem cmdWord_code (h c : Byte) : (cmdWord h c).extractLsb' 0 8 = c := by
  ext i hi
  simp [cmdWord_getLsbD, hi, BitVec.getLsbD_eq_getElem]

@[simp] theorem cmdWord_port (h c : Byte) : (cmdWord h c).extractLsb' 8 2 = h.extractLsb' 0 2 := by
  ext i hi
  simp [cmdWord_getLsbD]

/-- Table 9-1 as a list. -/
def cmdCodes : List (Byte × Cmd) :=
  [(0x00, .nop), (0x10, .arm), (0x11, .disarm), (0x12, .doze), (0x13, .wake), (0x20, .portOpen), (0x21, .portClose),
   (0x22, .portAbort), (0x30, .segPost), (0x31, .segFlush), (0x32, .queueStatus), (0x33, .markRead),
   (0x40, .memFill), (0x41, .regionCrc)]

theorem cmdOf_mem {code : Byte} {c : Cmd} (h : cmdOf code = some c) : (code, c) ∈ cmdCodes := by
  have hc : code = BitVec.ofNat 8 code.toNat := by simp
  unfold cmdOf at h
  split at h <;> rename_i hw <;> first | (rw [hw] at hc; subst hc; cases h; decide) | cases h

theorem cmdOf_of_not_mem {w : Byte} (h : w ∉ commandCodes) : cmdOf w = none := by
  unfold cmdOf
  split <;> first
    | rfl
    | (rename_i hw
       refine absurd ?_ h
       rw [show w = BitVec.ofNat 8 w.toNat by simp, hw]
       decide)

/-! ### Guards, latch and checks -/

/-- A host write that the part takes is the write of its register, then the settling. -/
theorem hostWrite_listening {s : State} (h : Listening s) (off : BitVec 6) (w : Word) :
    hostWrite off w s = .next (settle (writeRegister off w s)) := by
  simp [hostWrite, event, h.1, h.2]

/-- An event outside a power-on or pin reset. -/
theorem event_running {s : State} (h : s.held = none) (f : State → State) : event f s = .next (settle (f s)) := by
  simp [event, h]

/-- A host read outside a power-on or pin reset. -/
theorem hostRead_running {s : State} (h : s.held = none) (off : BitVec 6) :
    hostRead off s = .next (settle (driveBus (readValue s off) (readEffect off s))) := by
  simp [hostRead, event, h]

theorem latchCommand_eq_started (w : Word) (s : State) :
    latchCommand w s = started (w.extractLsb' 0 8) (portOf (w.extractLsb' 8 2)) s := rfl

theorem hostWrite_command {s : State} (h : TakesCommand s) (high code : Byte) :
    hostWrite offCmd (cmdWord high code) s = .next (settle (runLatched (started code (portField high) s))) := by
  rw [hostWrite_listening h.1]
  simp [writeRegister, offCmd, writeCmd, h.2, latchCommand_eq_started, portField]

/-- The machine's device-state check is R20's table. -/
theorem deviceCheck_eq_deviceRefusal (s : State) :
    ∀ e ∈ cmdCodes, deviceCheck e.2 s.sc.device s.mc.state = deviceRefusal s e.1 := by
  unfold deviceRefusal
  generalize s.sc.device = d
  generalize s.mc.state = m
  cases d <;> cases m <;> decide

/-- The commands that take a port are those of R124's table. -/
theorem takesPort_eq_lookup : ∀ e ∈ cmdCodes, e.2.takesPort = (portTable.lookup e.1).isSome := by decide

/-- The machine's port-state check is R124's table. -/
theorem portAdmits_eq_table (x : PState) :
    ∀ e ∈ cmdCodes, (portTable.lookup e.1).all (fun l => portAdmits e.2 x == decide (x ∈ l)) = true := by
  cases x <;> decide

/-- The checks of the machine are those of R8, R20 and R124. -/
theorem commonCheck_eq_refusal (s : State) (p : PortId) {c : Cmd} {code : Byte} (h : cmdOf code = some c) :
    commonCheck s c p = refusal s code p := by
  have hm := cmdOf_mem h
  have hd := deviceCheck_eq_deviceRefusal s _ hm
  have ht := takesPort_eq_lookup _ hm
  have ha := portAdmits_eq_table (s.port p).state _ hm
  unfold commonCheck refusal
  cases hl : portTable.lookup code with
  | none =>
    simp only [hl, Option.isSome_none] at ht
    cases hr : deviceRefusal s code <;> simp [ht, hd, hr]
  | some l =>
    simp only [hl, Option.isSome_some, Option.all_some, beq_iff_eq] at ht ha
    cases (s.pcfg p).present <;> cases hr : deviceRefusal s code <;> simp [ht, hd, hr, ha]

/-- A command of a port that is not turned away finds the port PRESENT and in a state that R124 admits. -/
theorem port_of_refusal_none {s : State} {code : Byte} {p : PortId} {states : List PState}
    (h : refusal s code p = none) (hl : portTable.lookup code = some states) :
    (s.pcfg p).present = true ∧ deviceRefusal s code = none ∧ (s.port p).state ∈ states := by
  simp only [refusal, hl] at h
  cases hp : (s.pcfg p).present <;> simp only [hp] at h
  · simp at h
  · cases hd : deviceRefusal s code <;> simp only [hd] at h
    · by_cases hm : (s.port p).state ∈ states
      · exact ⟨rfl, rfl, hm⟩
      · simp [hm] at h
    · simp at h

/-- A started command is turned away by the first check that fails, or has its own effect. -/
theorem runLatched_started {s : State} {p : PortId} {c : Cmd} {code : Byte} (h : cmdOf code = some c) :
    runLatched (started code p s) =
      match refusal s code p with
      | some r => ended r {} (started code p s)
      | none => cmdEffect c p (started code p s) := by
  have hl : (started code p s).hp.seq.latched = ⟨code, p, s.hp.seq.args⟩ := rfl
  have hr : refusal (started code p s) code p = refusal s code p := rfl
  simp only [runLatched, hl, h, commonCheck_eq_refusal _ _ h, hr]
  cases refusal s code p <;> rfl

/-- A CMD write that passes every check before the command's own has the command's effect. -/
theorem command_effect {s : State} {high code : Byte} {c : Cmd} (hc : cmdOf code = some c)
    (h : Admitted s code (portField high)) :
    hostWrite offCmd (cmdWord high code) s =
      .next (settle (cmdEffect c (portField high) (started code (portField high) s))) := by
  rw [hostWrite_command h.1, runLatched_started hc, h.2]

/-- Each row of Table 9-1 is a CMD write of its code. -/
theorem exec_cmdRow {c : Instr} {code high : Byte} (h : cmdRow c = some (code, high)) (s : State) :
    exec c s = hostWrite offCmd (cmdWord high code) s ∧ ∃ cmd, cmdOf code = some cmd := by
  cases c <;> simp only [cmdRow, Option.some.injEq, Prod.mk.injEq, reduceCtorEq] at h <;> obtain ⟨rfl, rfl⟩ := h <;>
    exact ⟨rfl, _, rfl⟩

end Sys2Proof.Laws
end

