-- ==== Sys2Proof/Laws/Completions.lean ====
section
/-! SUPPORT. Completions, closes, aborts and soft resets, each operation said once. -/

namespace Sys2Proof.Laws

open Sys2Proof.Machine Sys2Proof.Safety

/-! ### Lifecycle -/

theorem drainEnded_iff (s : State) (p : PortId) :
    drainEnded s p = true ↔
      ((s.pcfg p).dir = .capture ∧ liveFlight s p = false ∧ ((s.port p).fifo = [] ∨ (s.port p).queue = [])) ∨
      ((s.pcfg p).dir = .replay ∧ (s.port p).fifo = [] ∧ (s.port p).reservation = 0) := by
  unfold drainEnded
  cases hd : (s.pcfg p).dir <;> simp

/-- Only a CLOSING port can reach the end of a drain. -/
theorem closeTest_of_not_closing {p : PortId} {s : State} (h : (s.port p).state ≠ .closing) : closeTest p s = s := by
  simp [closeTest, h]

/-- The machine's end test is the drain's end as R127 to R129 state it. -/
theorem closeTest_eq_drainOver (p : PortId) (s : State) : closeTest p s = drainOver p s := by
  have h := drainEnded_iff s p
  unfold closeTest drainOver
  simp only [h, closeEnd_eq]

/-- Only a CLOSING port can be closed by the end of a drain. -/
theorem drainOver_of_not_closing {p : PortId} {s : State} (h : (s.port p).state ≠ .closing) : drainOver p s = s := by
  simp [drainOver, h]

theorem abortPort_open {s : State} {p : PortId} (h : (s.port p).state ≠ .closed) (hf : (s.port p).state ≠ .faulted) :
    abortPort p s = shut p .abort (s.port p).fifo.length
      (postAll (outcomes p .segAborted .hostAbort .abort (s.port p).queue) s) := by
  unfold abortPort
  split <;> first
    | contradiction
    | (rw [enterClosed_eq_shut, endWork_eq_postAll]; rfl)

theorem abortPort_faulted {s : State} {p : PortId} (h : (s.port p).state = .faulted) :
    abortPort p s = shut p .abort 0 s := by
  simp only [abortPort, h, enterClosed_eq_shut]

/-- What starting an episode does: one record, unless the episode runs already. -/
theorem startOverrun_eq (p : PortId) (s : State) :
    startOverrun p s = withPort p { s.port p with overrun := true }
      (if (s.port p).overrun then s else post ⟨.overrun, .port p, (s.port p).headTag, .noDetail, 0⟩ s) := by
  unfold startOverrun
  cases h : (s.port p).overrun with
  | true =>
    apply State.eq_of_fields <;> simp
    rw [← h, ← State.get_ports, Quad.set_get]
  | false => apply State.eq_of_fields <;> simp [postPort]

theorem startUnderrun_eq (p : PortId) (s : State) :
    startUnderrun p s = withPort p { s.port p with underrun := true }
      (if (s.port p).underrun then s else post ⟨.underrun, .port p, (s.port p).headTag, .noDetail, 0⟩ s) := by
  unfold startUnderrun
  cases h : (s.port p).underrun with
  | true =>
    apply State.eq_of_fields <;> simp
    rw [← h, ← State.get_ports, Quad.set_get]
  | false => apply State.eq_of_fields <;> simp [postPort]

/-! ### Settling -/

/-- A request rests on everything but the request before it. -/
theorem requestOf_setRequest (c : PortCfg) (a : Bool) (x : Port) (r : Option Urgency) :
    requestOf c a { x with request := r } = requestOf c a x := rfl

theorem releaseStop_settlePort (c : PortCfg) (a : Bool) (x : Port) :
    (settlePort c a x).releaseStop = settlePort c a x := by
  unfold settlePort Port.releaseStop
  split
  · simp
  · rfl

@[simp] theorem settlePort_settlePort (c : PortCfg) (a : Bool) (x : Port) :
    settlePort c a (settlePort c a x) = settlePort c a x := by
  have h := releaseStop_settlePort c a x
  calc settlePort c a (settlePort c a x)
      = { (settlePort c a x).releaseStop with request := requestOf c a (settlePort c a x).releaseStop } := rfl
    _ = { settlePort c a x with request := requestOf c a (settlePort c a x) } := by rw [h]
    _ = settlePort c a x := rfl

theorem settlePorts_settle (s : State) : settlePorts (settle s) = settle s := by
  apply State.eq_of_fields <;> try rfl
  apply Quad.eq_of_get
  intro p
  have h : abortWaits (settle s) p = abortWaits s p := rfl
  simp [h]

/-- Settling a settled state changes nothing. -/
@[simp] theorem settle_settle (s : State) : settle (settle s) = settle s := by
  calc settle (settle s)
      = { settlePorts (settle s) with pins := pinsOf (settlePorts (settle s)) } := rfl
    _ = { settle s with pins := pinsOf (settle s) } := by rw [settlePorts_settle]
    _ = settle s := rfl

theorem settled_of_settle (s : State) (h : s.held = none) : Settled (settle s) := by
  simp [Settled, h]

/-! ### Completions -/

theorem endFlight_idle {s : State} (h : s.mc.init = .idle) :
    endFlight s = { s with mc := { s.mc with flight := none } } := by
  simp [endFlight, h, State.updMc]

theorem endFlight_awaiting {s : State} (h : s.mc.init = .awaiting) :
    endFlight s = { s with mc := { s.mc with
      init := .step s.sc.cfg.initCount s.sc.cfg.modeFirst 0
      flight := some (initFlight s.sc.cfg.modeFirst s.sc.cfg.initCount 0) } } := by
  simp [endFlight, issuePrecharge, h, State.updMc]

/-- The machine's controller step at a completion is R49's step 1. -/
theorem endFlight_eq_freed (s : State) : endFlight s = freed s := by
  by_cases h : s.mc.init = .awaiting
  · rw [endFlight_awaiting h, freed, if_pos h]
    rfl
  · simp [endFlight, freed, h, State.updMc]

/-- A burst ends a SPLIT descriptor when its last word carries MARK (R105). -/
theorem splitEnd_iff (d : Desc) (ws : List FifoWord) :
    splitEnd d ws = true ↔ d.last = true ∧ ws.getLast?.map (·.mark) = some true := by
  unfold splitEnd
  cases ws.getLast? <;> simp

/-- The capture steps of a completion, with the words stored, are R106's order. -/
theorem captureCompletion_eq_capturedBurst {p : PortId} {f : Flight} (t : State) (h : f.who = .port p) :
    captureCompletion f t = capturedBurst p f t := by
  unfold captureCompletion capturedBurst captureSteps
  simp only [h, closeTest_eq_drainOver]
  by_cases ho : f.orphan
  · simp [ho, writeMemory, State.updMc]
  · have hp : (writeMemory f.addr (f.words.map (·.word)) t).port p = t.port p := rfl
    rw [hp]
    cases hq : (t.port p).queue with
    | nil => simp [ho, writeMemory, State.updMc]
    | cons e r =>
      have h1 : (writeMemory f.addr (f.words.map (·.word)) t).updPort p (fun x =>
          (x.advance f.count).logMarks e.desc.tag e.progress f.addr f.words) = withPort p
          (Port.logMarks e.desc.tag e.progress f.addr f.words
            { t.port p with queue := { e with progress := e.progress + f.count } :: r })
          (writeMemory f.addr (f.words.map (·.word)) t) := by
        have : Port.advance f.count (t.port p) =
            { t.port p with queue := { e with progress := e.progress + f.count } :: r } := by
          simp only [Port.advance, hq]
        rw [← this]; rfl
      simp only [ho, h1, guardPassed, splitEnd_iff, postPort, Bool.false_eq_true, if_false]
      cases hg : e.desc.guard with
      | none => rfl
      | some g =>
        by_cases hgg : e.progress ≤ g ∧ g < e.progress + f.count
        · simp only [hgg, and_self, if_true]; rfl
        · simp only [hgg, if_false]; rfl

/-- The replay steps of a completion are R110's order, on any port a PARITY fault can reach. -/
theorem replayCompletion_eq_replayedBurst {p : PortId} {f : Flight} {t : State} (h : f.who = .port p)
    (hs : f.orphan = true ∨ (t.port p).state = .active ∨ (t.port p).state = .closing) :
    replayCompletion f t = replayedBurst p f t := by
  unfold replayCompletion replayedBurst
  simp only [h, closeTest_eq_drainOver]
  by_cases ho : f.orphan
  · simp only [ho, if_true]; rfl
  · have hs' : (t.port p).state.faultable = true := by
      rcases hs with h | h | h
      · exact absurd h ho
      · simp [h, PState.faultable]
      · simp [h, PState.faultable]
    simp only [ho, Bool.false_eq_true, if_false]
    unfold parityPolicy
    congr 1
    have ht : fetchedTag f.slots = (match f.slots with | [] => 0 | sl :: _ => sl.boundary.desc.tag) := by
      cases f.slots <;> rfl
    have hw : memReads t.mc.mem t.freeIndex f.addr f.count =
      (List.range f.count).map fun k => memRead t.mc.mem (t.freeIndex + k) (f.addr + k) := rfl
    have hk : ∀ g, (((countReads f.count t).updPort p g).pcfg p) = t.pcfg p := fun _ => rfl
    simp only [ht, hw, hk]
    split
    · rfl
    · split
      · rw [fault_eq_faultState]
        · rfl
        · simpa [postPort, Port.place] using hs'
      · rfl

/-- The requester's row completes the transaction in flight, a deferred soft reset being the last step (R178). -/
theorem afterCompletion_eq_deferred (w : Requester) (s : State) :
    afterCompletion w s = deferredReset (match abortAwaits s w with
      | some p => finish .ok {} (closeGrant (abortPort p s))
      | none => closeGrant s) := by
  unfold afterCompletion
  cases abortAwaits s w <;> rfl

theorem complete_of_flight {s : State} {f : Flight} (hf : s.mc.flight = some f) {row : Flight → Bool}
    (hr : row f = true) (handle : Flight → State → State) :
    complete row handle s = afterCompletion f.who (handle f (endFlight s)) := by
  simp [complete, hf, hr]

/-- Holding a requester changes fairness states only. -/
theorem hold_eq (r : Requester) (s : State) : hold r s = { s with ma := (hold r s).ma } := by
  cases r <;> rfl

theorem fairnessUpdate_eq (s : State) : fairnessUpdate s = { s with ma := (fairnessUpdate s).ma } := by
  unfold fairnessUpdate
  split
  · split
    · exact hold_eq _ s
    · rfl
  · rfl

/-- Closing the grant changes the requests, the fairness states and the grant record only. -/
theorem closeGrant_eq (s : State) :
    closeGrant s = { s with ports := (settlePorts s).ports, ma := (closeGrant s).ma } := by
  have h := fairnessUpdate_eq (settlePorts s)
  simp only [closeGrant]
  rw [h]
  rfl

@[simp] theorem closeGrant_sc (s : State) : (closeGrant s).sc = s.sc := by rw [closeGrant_eq]
@[simp] theorem closeGrant_hp (s : State) : (closeGrant s).hp = s.hp := by rw [closeGrant_eq]
@[simp] theorem closeGrant_mc (s : State) : (closeGrant s).mc = s.mc := by rw [closeGrant_eq]
@[simp] theorem closeGrant_eu (s : State) : (closeGrant s).eu = s.eu := by rw [closeGrant_eq]
@[simp] theorem closeGrant_tb (s : State) : (closeGrant s).tb = s.tb := by rw [closeGrant_eq]
@[simp] theorem closeGrant_pins (s : State) : (closeGrant s).pins = s.pins := by rw [closeGrant_eq]
@[simp] theorem closeGrant_held (s : State) : (closeGrant s).held = s.held := by rw [closeGrant_eq]
@[simp] theorem closeGrant_pending (s : State) : (closeGrant s).pending = s.pending := by rw [closeGrant_eq]
@[simp] theorem closeGrant_freeIndex (s : State) : (closeGrant s).freeIndex = s.freeIndex := by rw [closeGrant_eq]
@[simp] theorem closeGrant_ports (s : State) : (closeGrant s).ports = (settlePorts s).ports := by rw [closeGrant_eq]

/-- With no abort waiting and no soft reset pending, a completion ends with the closing of the grant. -/
theorem afterCompletion_plain {w : Requester} {s : State} (ha : abortAwaits s w = none)
    (hr : s.sc.resetPending = false) : afterCompletion w s = closeGrant s := by
  simp [afterCompletion, ha, deferredReset, hr]

/-- With an abort waiting, the abort executes, the grant is closed, and the abort's command completes. -/
theorem afterCompletion_abort {w : Requester} {s : State} {p : PortId} (ha : abortAwaits s w = some p)
    (hr : (abortPort p s).sc.resetPending = false) :
    afterCompletion w s = ended .ok {} (closeGrant (abortPort p s)) := by
  simp [afterCompletion, ha, deferredReset, hr, finish_eq_ended]

/-- What a soft reset leaves does not depend on requests, pins or the pending flag, so settling first, or having had
none pending, changes nothing. -/
theorem softResetState_settle (s : State) : softResetState (settle s) = softResetState s := rfl

theorem softReset_eq_softResetState (s : State) : softReset s = softResetState s := by
  unfold softReset softResetState State.reset
  cases s.mc.state <;> simp

end Sys2Proof.Laws
end

