-- ==== Sys2Proof/Laws/Memory.lean ====
section
/-! SUPPORT. Buffer memory: a stored cell reads back, every other cell reads as before, and every memory operation
keeps the canonical form. -/

namespace Sys2Proof.Laws

open Sys2Proof.Machine

/-! ### Cells -/

/-- Every device is at least 1 Mi words, and an address lies within 22 bits of cells. -/
theorem cellOf_cases : (∀ a, cellOf a = a % 1048576) ∨ (∀ a, cellOf a = a % 2097152) ∨ (∀ a, cellOf a = a % 4194304) := by
  unfold cellOf
  generalize Config.attachedSelect = n
  match n with
  | 0 => exact .inl fun _ => rfl
  | 1 => exact .inr (.inl fun _ => rfl)
  | 2 => exact .inr (.inr fun _ => rfl)

theorem cellOf_lt (a : Nat) : cellOf a < 4194304 := by
  rcases cellOf_cases with h | h | h <;> rw [h] <;> omega

theorem isBad_parityOf (w : Word) : isBad ⟨w, parityOf w⟩ = false := by simp [isBad]

/-! ### One store -/

@[simp] theorem memLookup_memStore_self (m : Memory) (c : Nat) (x : MemWord) :
    memLookup (memStore m c x) c = some x := by
  induction m with
  | nil => simp [memStore, memLookup]
  | cons e t ih =>
    obtain ⟨a, y⟩ := e
    unfold memStore
    split
    · simp [memLookup]
    · split
      · simp [memLookup]
      · rename_i h1 h2
        rw [memLookup, if_neg (fun h => h2 h.symm), ih]

theorem memLookup_memStore_ne (m : Memory) {c d : Nat} (x : MemWord) (h : d ≠ c) :
    memLookup (memStore m c x) d = memLookup m d := by
  induction m with
  | nil => simp [memStore, memLookup, h.symm]
  | cons e t ih =>
    obtain ⟨a, y⟩ := e
    unfold memStore
    split
    · simp [memLookup, h.symm]
    · split
      · rename_i h1 h2
        subst h2
        simp [memLookup, h.symm]
      · simp only [memLookup, ih]

/-- The cells of a store are the old ones and the one stored. -/
theorem memStore_mem {m : Memory} {c : Nat} {x : MemWord} {e : Nat × MemWord} (h : e ∈ memStore m c x) :
    e = (c, x) ∨ e ∈ m := by
  induction m with
  | nil => simpa [memStore] using h
  | cons f t ih =>
    obtain ⟨a, y⟩ := f
    unfold memStore at h
    split at h
    · simpa using h
    · split at h
      · simp at h ⊢
        tauto
      · simp at h ⊢
        rcases h with h | h
        · exact .inr (.inl h)
        · rcases ih h with h | h <;> tauto

theorem memStore_wf {m : Memory} {c : Nat} {x : MemWord} (h : m.wf = true) (hc : c < 4194304)
    (hx : isBad x = false) : (memStore m c x).wf = true := by
  induction m with
  | nil => simp [memStore, Memory.wf, hc, hx]
  | cons f t ih =>
    obtain ⟨a, y⟩ := f
    simp only [Memory.wf, Bool.and_eq_true, decide_eq_true_eq, Bool.not_eq_true', List.all_eq_true] at h
    obtain ⟨⟨⟨h1, h2⟩, h3⟩, h4⟩ := h
    unfold memStore
    split
    · rename_i hlt
      simp only [Memory.wf, Bool.and_eq_true, decide_eq_true_eq, Bool.not_eq_true', List.all_eq_true, List.mem_cons]
      exact ⟨⟨⟨hc, hx⟩, fun e he => he.elim (fun he => he ▸ hlt) fun he => hlt.trans (h3 e he)⟩,
        ⟨⟨h1, h2⟩, h3⟩, h4⟩
    · split
      · rename_i hlt heq
        subst heq
        simp only [Memory.wf, Bool.and_eq_true, decide_eq_true_eq, Bool.not_eq_true', List.all_eq_true]
        exact ⟨⟨⟨hc, hx⟩, h3⟩, h4⟩
      · rename_i hlt hne
        simp only [Memory.wf, Bool.and_eq_true, decide_eq_true_eq, Bool.not_eq_true', List.all_eq_true]
        refine ⟨⟨⟨h1, h2⟩, fun e he => ?_⟩, ih h4⟩
        rcases memStore_mem he with rfl | he
        · simp only; omega
        · exact h3 e he

/-! ### A write transaction -/

theorem memWrite_wf {m : Memory} (addr : Nat) (ws : List Word) (h : m.wf = true) :
    (memWrite m addr ws).wf = true := by
  induction ws generalizing m addr with
  | nil => exact h
  | cons w ws ih => exact ih _ (memStore_wf h (cellOf_lt _) (isBad_parityOf w))

/-- A write changes no cell that none of its words reaches. -/
theorem memLookup_memWrite_ne (m : Memory) (addr : Nat) (ws : List Word) {c : Nat}
    (h : ∀ k, k < ws.length → c ≠ cellOf (addr + k)) : memLookup (memWrite m addr ws) c = memLookup m c := by
  induction ws generalizing m addr with
  | nil => rfl
  | cons w ws ih =>
    rw [memWrite, ih]
    · exact memLookup_memStore_ne m _ (h 0 (by simp))
    · intro k hk
      have := h (k + 1) (by simpa using hk)
      rwa [show addr + 1 + k = addr + (k + 1) by omega]

/-- What a read of a word returns rests on the lookup of its cell. -/
theorem memRead_of_lookup {m : Memory} {free a : Nat} {x : MemWord} (h : memLookup m (cellOf a) = some x) :
    memRead m free a = x := by simp [memRead, h]

theorem memRead_congr {m n : Memory} (free a : Nat) (h : memLookup m (cellOf a) = memLookup n (cellOf a)) :
    memRead m free a = memRead n free a := by simp [memRead, h]

@[simp] theorem memReads_length (m : Memory) (free a n : Nat) : (memReads m free a n).length = n := by
  simp [memReads]

theorem reset_mem_wf : State.reset.mc.mem.wf = true := rfl

end Sys2Proof.Laws
end

