-- ==== Sys2Proof/Laws/Requests.lean ====
section
/-! SUPPORT. What the requests of REFRESH and HOST are, and what a requester's gated request adds to the candidates of an
arbitration point (R51, R60, R61). -/

namespace Sys2Proof.Machine

open Sys2Proof.Safety

theorem refreshRequest_eq_some (s : State) (u : Urgency) : refreshRequest s = some u ↔
    s.mc.state = .ready ∧ 1 ≤ s.mc.owed ∧
      ((s.sc.cfg.urgentLimit ≤ s.mc.owed ∧ u = .urgent) ∨ (s.mc.owed < s.sc.cfg.urgentLimit ∧ u = .normal)) := by
  simp only [refreshRequest, Bool.and_eq_true, beq_iff_eq, decide_eq_true_eq]
  by_cases h : s.sc.cfg.urgentLimit ≤ s.mc.owed <;> cases u <;> simp [h] <;> omega

theorem hostRequest_isSome (s : State) : (hostRequest s).isSome = true ↔ HostRequests s := by
  unfold hostRequest HostRequests
  rcases s.hp.win.wbuf with _ | b
  · rcases s.hp.seq.running with _ | (_ | _ | _ | _) <;> simp
  · simp

theorem mem_asking (c : Candidate) (who : Requester) (r : Option Urgency) (u n : Nat) :
    c ∈ asking who r u n ↔
      c.who = who ∧ r = some c.urg ∧ c.level = (match c.urg with | .urgent => u | .normal => n) := by
  obtain ⟨w, g, l⟩ := c
  rcases r with _ | _ | _ <;> cases g <;> simp [asking]

end Sys2Proof.Machine
end

