-- ==== Sys2Proof/Laws/Step.lean ====
section
/-! SUPPORT. What one step can do: a command of the queue, an end-of-instant step, a REFCLK period, or nothing. -/

namespace Sys2Proof.Laws

open Sys2Proof.Machine

theorem step_cons {s : State} {c : Instr} {rest : List Instr} (h : s.pending = c :: rest) :
    step s = exec c { s with pending := rest } := by simp [step, h]

theorem step_nil {s : State} (h : s.pending = []) : step s = .next (onEmptyQueue s) := by simp [step, h]

theorem onEmptyQueue_sleep {s : State} (h : s.held = none) (hs : sleepDue s = true) :
    exec .sleepEntry s = .next (onEmptyQueue s) := by
  simp [exec, execSleepEntry, event, onEmptyQueue, h, hs]

theorem onEmptyQueue_point {s : State} (h : s.held = none) (hs : sleepDue s = false) (hp : pointDue s = true) :
    exec .arbitrationPoint s = .next (onEmptyQueue s) := by
  simp [exec, execArbitrationPoint, event, onEmptyQueue, h, hs, hp]

theorem onEmptyQueue_period {s : State} (h : s.held = none) (hs : sleepDue s = false) (hp : pointDue s = false) :
    onEmptyQueue s = refclkPeriod s := by simp [onEmptyQueue, h, hs, hp]

/-- A step runs a command on the rest of some queue, or, on an empty queue, SLEEP_ENTRY or ARBITRATION_POINT, or it
lets a REFCLK period pass, or, held in reset, does nothing. -/
theorem step_cases {s t : State} (h : step s = .next t) :
    (∃ c rest, s.pending = c :: rest ∧ exec c { s with pending := rest } = .next t) ∨
    (s.pending = [] ∧ ((s.held.isSome = true ∧ t = s) ∨ exec .sleepEntry s = .next t ∨
      exec .arbitrationPoint s = .next t ∨ (s.held = none ∧ t = refclkPeriod s))) := by
  cases hq : s.pending with
  | cons c rest => exact .inl ⟨c, rest, rfl, step_cons hq ▸ h⟩
  | nil =>
    rw [step_nil hq] at h
    injection h with h
    subst h
    refine .inr ⟨rfl, ?_⟩
    cases hh : s.held with
    | some _ => exact .inl ⟨rfl, by simp [onEmptyQueue, hh]⟩
    | none =>
      cases hs : sleepDue s with
      | true => exact .inr (.inl (onEmptyQueue_sleep hh hs))
      | false =>
        cases hp : pointDue s with
        | true => exact .inr (.inr (.inl (onEmptyQueue_point hh hs hp)))
        | false => exact .inr (.inr (.inr ⟨rfl, onEmptyQueue_period hh hs hp⟩))

end Sys2Proof.Laws
end

