-- ==== Sys2Proof/Laws/Transfers.lean ====
section
/-! SUPPORT. The words of a queue, one entry after another: what wordAt and wordsBefore say of a queue that grows at its
tail, loses its head, or changes progress and started flags only. -/

namespace Sys2Proof.Laws

open Sys2Proof.Machine Sys2Proof.Safety

@[simp] theorem wordsBefore_zero (q : List QEntry) : wordsBefore q 0 = 0 := rfl

@[simp] theorem wordsBefore_nil (n : Nat) : wordsBefore [] n = 0 := by simp [wordsBefore]

@[simp] theorem wordsBefore_cons_succ (e : QEntry) (q : List QEntry) (n : Nat) :
    wordsBefore (e :: q) (n + 1) = wordsOf e.desc + wordsBefore q n := by simp [wordsBefore]

/-- Only the descriptors count. -/
theorem wordsBefore_congr {q r : List QEntry} (h : q.map (·.desc) = r.map (·.desc)) (n : Nat) :
    wordsBefore q n = wordsBefore r n := by
  have hm (l : List QEntry) :
      ((l.take n).map fun e => wordsOf e.desc) = ((l.map (·.desc)).take n).map wordsOf := by
    rw [← List.map_take, List.map_map]
    rfl
  simp only [wordsBefore, hm, h]

theorem wordsBefore_append {q r : List QEntry} {n : Nat} (h : n ≤ q.length) :
    wordsBefore (q ++ r) n = wordsBefore q n := by
  simp [wordsBefore, List.take_append_of_le_length h]

theorem wordsBefore_mono (q : List QEntry) {m n : Nat} (h : m ≤ n) : wordsBefore q m ≤ wordsBefore q n := by
  induction q generalizing m n with
  | nil => simp
  | cons e q ih =>
    cases m with
    | zero => simp
    | succ m =>
      obtain ⟨n, rfl⟩ : ∃ k, n = k + 1 := ⟨n - 1, by omega⟩
      simpa using ih (by omega)

/-- The words before the entry after one are that entry's words more. -/
theorem wordsBefore_succ {q : List QEntry} {i : Nat} {e : QEntry} (h : q[i]? = some e) :
    wordsBefore q (i + 1) = wordsBefore q i + wordsOf e.desc := by
  induction q generalizing i with
  | nil => simp at h
  | cons x q ih =>
    cases i with
    | zero =>
      obtain rfl : x = e := by simpa using h
      simp
    | succ i => rw [wordsBefore_cons_succ, ih (by simpa using h), wordsBefore_cons_succ, Nat.add_assoc]

theorem wordAt_head {e : QEntry} {n : Nat} (q : List QEntry) (h : n < wordsOf e.desc) :
    wordAt (e :: q) n = some { desc := e.desc, rep := n / e.desc.length + 1, index := n % e.desc.length,
                               final := decide (n + 1 = wordsOf e.desc) } := if_pos h

/-- Past its head, a queue's words are those of the rest. -/
theorem wordAt_past_head (e : QEntry) (q : List QEntry) (n : Nat) :
    wordAt (e :: q) (wordsOf e.desc + n) = wordAt q n := by
  simp [wordAt]

/-- Only the descriptors count. -/
theorem wordAt_congr {q r : List QEntry} (h : q.map (·.desc) = r.map (·.desc)) (n : Nat) : wordAt q n = wordAt r n := by
  induction q generalizing r n with
  | nil => cases r with
    | nil => rfl
    | cons _ _ => simp at h
  | cons e q ih => cases r with
    | nil => simp at h
    | cons f r =>
      simp only [List.map_cons, List.cons.injEq] at h
      simp only [wordAt, h.1, ih h.2]

/-- A queue has exactly the words of its entries. -/
theorem wordAt_isSome_iff (q : List QEntry) (n : Nat) : (wordAt q n).isSome = true ↔ n < wordsBefore q q.length := by
  induction q generalizing n with
  | nil => simp [wordAt]
  | cons e q ih =>
    by_cases h : n < wordsOf e.desc
    · simp only [wordAt_head q h, Option.isSome_some, List.length_cons, wordsBefore_cons_succ, true_iff]
      omega
    · obtain ⟨k, rfl⟩ : ∃ k, n = wordsOf e.desc + k := ⟨n - wordsOf e.desc, by omega⟩
      rw [wordAt_past_head, ih, List.length_cons, wordsBefore_cons_succ]
      omega

/-- Entries appended at the tail leave the words before them as they are. -/
theorem wordAt_append {q : List QEntry} {n : Nat} (r : List QEntry) (h : n < wordsBefore q q.length) :
    wordAt (q ++ r) n = wordAt q n := by
  induction q generalizing n with
  | nil => simp at h
  | cons e q ih =>
    by_cases hn : n < wordsOf e.desc
    · rw [List.cons_append, wordAt_head _ hn, wordAt_head _ hn]
    · obtain ⟨k, rfl⟩ : ∃ k, n = wordsOf e.desc + k := ⟨n - wordsOf e.desc, by omega⟩
      rw [List.cons_append, wordAt_past_head, wordAt_past_head]
      rw [List.length_cons, wordsBefore_cons_succ] at h
      exact ih (by omega)

/-- With no transaction of its own in flight a port has reserved nothing. -/
theorem liveSlots_of_none {s : State} {p : PortId} (h : ∀ f, s.mc.flight = some f → f.who = .port p → f.orphan = true) :
    liveSlots s p = [] := by
  unfold liveSlots
  cases hf : s.mc.flight with
  | none => rfl
  | some f =>
    have := h f hf
    by_cases hw : f.who = .port p <;> simp_all

/-- A port with nothing queued, buffered, reserved or in flight has its words in order. -/
theorem transfers_of_empty {s : State} {p : PortId} (hq : (s.port p).queue = []) (hb : (s.port p).fifo = [])
    (hr : (s.port p).reservation = 0) (hc : (s.port p).fetch = none)
    (hf : ∀ f, s.mc.flight = some f → f.who = .port p → f.orphan = true) :
    QueueSound (s.pcfg p) (s.port p) ∧ FifoSound s p ∧ BurstSound s p ∧ StreamSound s p := by
  have hl := liveSlots_of_none hf
  refine ⟨by simp [QueueSound, hq], by simp [FifoSound, hb, hr, hl], ?_, ?_⟩
  · intro f h hw ho
    rw [hf f h hw] at ho
    cases ho
  · simp [StreamSound, hq, hb, hc, hl, fetchedWords, headProgress]

end Sys2Proof.Laws
end

