-- ==== Sys2Proof/Laws/Words.lean ====
section
/-! SUPPORT. Packed words bit by bit, and the fields read back from them. -/

namespace Sys2Proof.Laws

open Sys2Proof.Machine

theorem pack_getLsbD (fs : List (Nat × Nat)) (i : Nat) :
    (pack fs).getLsbD i = (decide (i < 16) && fs.any fun f => decide (f.1 ≤ i) && f.2.testBit (i - f.1)) := by
  induction fs with
  | nil => simp [pack]
  | cons f fs ih =>
    simp only [pack, BitVec.getLsbD_or, ih, BitVec.getLsbD_ofNat, List.any_cons, Nat.testBit_mul_two_pow]
    cases decide (i < 16) <;> simp

theorem flag_pack (fs : List (Nat × Nat)) (i : Nat) :
    flag (pack fs) i = (decide (i < 16) && fs.any fun f => decide (f.1 ≤ i) && f.2.testBit (i - f.1)) :=
  pack_getLsbD fs i

theorem bits_toNat (w : Word) (lo len : Nat) : bits w lo len = w.toNat / 2 ^ lo % 2 ^ len := by
  simp [bits, BitVec.extractLsb'_toNat, Nat.shiftRight_eq_div_pow]

theorem bits_low (w : Word) (len : Nat) : bits w 0 len = w.toNat % 2 ^ len := by simp [bits_toNat]

theorem flag_testBit (w : Word) (i : Nat) : flag w i = w.toNat.testBit i := (BitVec.testBit_toNat w).symm

/-- The bits from `lo` up to the top of a word are 0. -/
theorem bits_top_eq_zero (w : Word) (lo len : Nat) (h : lo + len = 16) : bits w lo len = 0 ↔ w.toNat < 2 ^ lo := by
  have hw : w.toNat / 2 ^ lo < 2 ^ len := by
    rw [Nat.div_lt_iff_lt_mul (by positivity), ← pow_add, Nat.add_comm len, h]
    exact w.isLt
  rw [bits_toNat, Nat.mod_eq_of_lt hw, Nat.div_eq_zero_iff]
  simp

/-- A field holds the number whose bits stand there. -/
theorem bits_eq {w : Word} {lo len n : Nat} (hn : n < 2 ^ len)
    (h : ∀ i, i < len → w.getLsbD (lo + i) = n.testBit i) : bits w lo len = n := by
  apply Nat.eq_of_testBit_eq
  intro i
  unfold bits
  rw [BitVec.testBit_toNat, BitVec.getLsbD_extractLsb']
  by_cases hi : i < len
  · simp [hi, h i hi]
  · have : n.testBit i = false :=
      Nat.testBit_lt_two_pow (lt_of_lt_of_le hn (Nat.pow_le_pow_right (by norm_num) (by omega)))
    simp [hi, this]

/-- The bits of one field of a packed word, when every other field ends below it, starts past it, or is 0. -/
theorem pack_field_getLsbD (before after : List (Nat × Nat)) (lo len n : Nat) (hw : lo + len ≤ 16)
    (hb : ∀ f ∈ before, f.2 * 2 ^ f.1 < 2 ^ lo) (ha : ∀ f ∈ after, lo + len ≤ f.1 ∨ f.2 = 0) (i : Nat)
    (hi : i < len) : (pack (before ++ (lo, n) :: after)).getLsbD (lo + i) = n.testBit i := by
  have h1 : before.any (fun f => decide (f.1 ≤ lo + i) && f.2.testBit (lo + i - f.1)) = false := by
    rw [List.any_eq_false]
    intro f hf
    have hlt := hb f hf
    by_cases hle : f.1 ≤ lo + i
    · have : f.2 < 2 ^ (lo + i - f.1) := by
        by_contra hc
        have h2 : 2 ^ (lo + i) ≤ f.2 * 2 ^ f.1 := by
          calc 2 ^ (lo + i) = 2 ^ (lo + i - f.1) * 2 ^ f.1 := by rw [← pow_add]; congr 1; omega
            _ ≤ f.2 * 2 ^ f.1 := Nat.mul_le_mul_right _ (by omega)
        have h3 : 2 ^ lo ≤ 2 ^ (lo + i) := Nat.pow_le_pow_right (by norm_num) (by omega)
        omega
      simp [Nat.testBit_lt_two_pow this]
    · simp [hle]
  have h2 : after.any (fun f => decide (f.1 ≤ lo + i) && f.2.testBit (lo + i - f.1)) = false := by
    rw [List.any_eq_false]
    intro f hf
    rcases ha f hf with h | h
    · simp [show ¬ f.1 ≤ lo + i by omega]
    · simp [h]
  rw [pack_getLsbD, List.any_append, h1, List.any_cons, h2]
  simp [show lo + i < 16 by omega]

theorem bits_pack (before after : List (Nat × Nat)) (lo len n : Nat) (hw : lo + len ≤ 16) (hn : n < 2 ^ len)
    (hb : ∀ f ∈ before, f.2 * 2 ^ f.1 < 2 ^ lo) (ha : ∀ f ∈ after, lo + len ≤ f.1 ∨ f.2 = 0) :
    bits (pack (before ++ (lo, n) :: after)) lo len = n :=
  bits_eq hn (pack_field_getLsbD before after lo len n hw hb ha)

/-- Bits past every field are 0. -/
theorem bits_pack_zero (fs : List (Nat × Nat)) (lo len : Nat) (hw : lo + len ≤ 16)
    (hb : ∀ f ∈ fs, f.2 * 2 ^ f.1 < 2 ^ lo) : bits (pack fs) lo len = 0 := by
  have h : pack (fs ++ (lo, 0) :: []) = pack fs := by
    induction fs with
    | nil => simp [pack]
    | cons f fs ih =>
      simp only [List.cons_append, pack]
      rw [ih fun g hg => hb g (List.mem_cons_of_mem _ hg)]
  rw [← h]
  exact bits_pack fs [] lo len 0 hw (by positivity) hb (by simp)

theorem flag_pack_bool (before after : List (Nat × Nat)) (i : Nat) (b : Bool) (hw : i < 16)
    (hb : ∀ f ∈ before, f.2 * 2 ^ f.1 < 2 ^ i) (ha : ∀ f ∈ after, i + 1 ≤ f.1 ∨ f.2 = 0) :
    flag (pack (before ++ (i, b.toNat) :: after)) i = b := by
  have h := pack_field_getLsbD before after i 1 b.toNat hw hb ha 0 Nat.one_pos
  simp only [Nat.add_zero] at h
  rw [flag, h]
  cases b <;> rfl

/-- A bit between the fields is 0. -/
theorem flag_pack_gap (before after : List (Nat × Nat)) (i : Nat) (hb : ∀ f ∈ before, f.2 * 2 ^ f.1 < 2 ^ i)
    (ha : ∀ f ∈ after, i + 1 ≤ f.1 ∨ f.2 = 0) : flag (pack (before ++ after)) i = false := by
  by_cases hi : i < 16
  · have h := flag_pack_bool before after i false hi hb ha
    rw [flag_pack] at h ⊢
    simpa using h
  · simp [flag_pack, hi]

/-- Two fields that do not meet add up. -/
theorem pack_two (a b lo : Nat) (ha : a < 2 ^ lo) : pack [(0, a), (lo, b)] = BitVec.ofNat 16 (a + b * 2 ^ lo) := by
  have h : a + b * 2 ^ lo = a ||| b * 2 ^ lo := by
    rw [Nat.add_comm, Nat.mul_comm b, Nat.two_pow_add_eq_or_of_lt ha, Nat.or_comm]
  rw [h]
  apply BitVec.eq_of_getLsbD_eq
  intro i hi
  simp [pack, hi]

@[simp] theorem lowWord_toNat (n : Nat) : (lowWord n).toNat = n % 65536 := by simp [lowWord]
@[simp] theorem highWord_toNat (n : Nat) : (highWord n).toNat = n / 65536 % 65536 := by simp [highWord]

end Sys2Proof.Laws
end

