-- ==== Sys2Proof/Tests/Slice0.lean ====
section
/-! SUPPORT. Tests: the well-formedness checks, the manual's worked examples, and for each statement with hypotheses a
state and operands that meet them, clause by clause. -/

namespace Sys2Proof.Tests

open Sys2Proof.Machine Sys2Proof.Safety

/-! ### States to start from -/

/-- A legal configuration: P0 capture DROP, P1 replay FILL, P2 capture FAULT, P3 replay HOLD with PARITY FAULT, in
regions of one unit each. -/
def cfg : Cfg :=
  { ports := ⟨{ pcfg := 0x0041, levels := 0x0208 },
      { pcfg := 0x0043, regionBase := 1, levels := 0x0309 },
      { pcfg := 0x0049, regionBase := 2, levels := 0x040A },
      { pcfg := 0x0057, regionBase := 3, levels := 0x050B }⟩ }

/-- SETUP with memory READY. -/
def ready : State := { mc := { state := .ready }, sc := { cfg := cfg } }

/-- ARMED, every port CLOSED. -/
def armed : State := { ready with sc := { ready.sc with device := .armed } }

/-- DOZE. -/
def dozing : State := { armed with sc := { armed.sc with device := .doze }, mc := { state := .sleep } }

/-- A power-on or pin reset holds the part. -/
def inReset : State := { held := some .pin, sc := { resetCause := .pin } }

/-- ARMED with a soft reset pending. -/
def pendingReset : State := { armed with sc := { armed.sc with resetPending := true } }

/-- ARMED with one port as given. -/
def live (p : PortId) (x : Port) : State := withPort p x armed

/-- ARMED with a command running. -/
def running (r : Running) : State := busy r armed

/-- `s` with a transaction in flight. -/
def flying (f : Flight) (s : State) : State := { s with mc := { s.mc with flight := some f } }

/-- `s` with one port of other configuration words. -/
def withCfg (p : PortId) (k : PortCfg) (s : State) : State :=
  { s with sc := { s.sc with cfg := { s.sc.cfg with ports := s.sc.cfg.ports.set p k } } }

/-- `s` with ARG0 to ARG7. -/
def withArgs (a : Args) (s : State) : State :=
  { s with hp := { s.hp with seq := { s.hp.seq with args := a } } }

/-- The state a command leaves, for reading one field of it. -/
def after (c : Instr) (s : State) : State :=
  match exec c s with
  | .next t => t
  | .fault _ => s
  | .refused _ => s

def plain : Desc :=
  { tag := 3, start := 0, length := 100, notify := true, stop := false, recycle := false, last := false,
    guard := none, rpt := none }

def entry (progress : Nat) : QEntry := { desc := plain, progress := progress, started := true }

def mark (m : Bool) : FifoWord := { word := 0x00AA, mark := m }

/-- `n` words in a FIFO. -/
def words (n : Nat) : List FifoWord := List.replicate n (mark false)

/-- A word of a replay FIFO. -/
def played (final : Bool) : FifoWord :=
  { word := 0x00BB, mark := false, boundary := some { desc := plain, rep := 1, index := 5, final := final } }

/-- An ACTIVE port with one descriptor. -/
def active : Port := { state := .active, xen := true, queue := [entry 40] }

/-- An event queue of `n` records. -/
def records (n : Nat) : List EvRecord :=
  List.replicate n { report := ⟨.segDone, .port .p0, 3, .noDetail, 16⟩, seqNo := 40, stamp := 0 }

/-! ### Well-formed commands -/

theorem test_undefinedCommand_refuses_a_code_of_the_table : wellFormed (.undefinedCommand 0x0310) = false := by decide
theorem test_undefinedCommand_accepts_another_code : wellFormed (.undefinedCommand 0x0314) = true := by decide
theorem test_softReset_needs_bit_0 : wellFormed (.softReset 0x0002) = false := by decide
theorem test_cmdCancel_needs_bit_1 : wellFormed (.cmdCancel 0x0004) = false := by decide
theorem test_cmdCancel_refuses_bit_0 : wellFormed (.cmdCancel 0x0003) = false := by decide
theorem test_start_needs_bit_0 : wellFormed (.start 0xFFFE) = false := by decide
theorem test_registerWrite_needs_a_strobe : wellFormed (.registerWrite false false 0x06 0) = false := by decide
theorem test_registerWrite_refuses_a_write_row : wellFormed (.registerWrite false true 0x05 0) = false := by decide
theorem test_registerWrite_refuses_a_read_row : wellFormed (.registerWrite true false 0x19 0) = false := by decide
theorem test_registerWrite_accepts_arg0 : wellFormed (.registerWrite false true 0x06 0x1234) = true := by decide
theorem test_table_spells_no_command : decodeTableWord 16 0x10 = none := by decide

/-! ### The manual's worked examples -/

/-- Chapter 1, arguments are latched: ARG0 reads what was written after, the fill keeps the pattern latched. -/
theorem test_arguments_are_latched :
    let s := after (.memFill 0) (withArgs { a0 := 0x1234, a3 := 5 } armed)
    let t := after (.registerWrite false true 0x06 0x5555) s
    t.hp.seq.args.a0 = 0x5555 ∧ t.hp.seq.running = some (.memFill { start := 0, count := 5 } 0x1234) := by decide

/-- Chapter 1, a command written too early: only OVERLAP. -/
theorem test_early_command_sets_overlap :
    readValue (after (.portClose 2) (running (.memFill { start := 0, count := 5 } 0))) 0x0E = 0x0005 := by decide

/-- Chapter 1, reading a block: a read before the prefetch completes returns FFFFH and leaves WIN_ADDR. -/
theorem test_window_underflow :
    let s := after (.winAddrHiWrite 1) (after (.winAddrLoWrite 0) armed)
    let t := after .winDataRead s
    s.hp.win.latch = .pending ∧ t.hp.dataBus = 0xFFFF ∧ t.hp.win.addr = 0x010000 ∧
      readValue t 0x23 = 0x0800 := by decide

/-- Chapter 1, a protected region: refused at test 4, accepted one word past it. -/
theorem test_window_write_protected :
    let s := withCfg .p0 { pcfg := 0x0041, regionSize := 4, levels := 0 } (live .p0 active)
    let refused := after (.winDataWrite 0xABCD) { s with hp := { s.hp with win := { addr := 0x000FFF } } }
    let taken := after (.winDataWrite 0xABCD) (after (.winAddrLoWrite 0x1000) refused)
    readValue refused 0x23 = 0x0200 ∧ refused.hp.win.addr = 0x000FFF ∧
      taken.hp.win.addr = 0x001001 ∧ taken.hp.win.wbuf = some ⟨0xABCD, 0x001000⟩ := by decide

/-- Chapter 2, first failure on the earlier port: RES0 is 0005H, then 0123H. -/
theorem test_arm_reports_the_earlier_port :
    let k1 : PortCfg := { pcfg := 0x00A3, regionSize := 64, levels := 0x0309 }
    let s (base : Word) : State := { mc := { state := .ready }, sc := { cfg := { cfg with ports :=
      ⟨{ pcfg := 0x0041, regionBase := base, regionSize := 64, levels := 0x0208 }, k1, { levels := 0 },
        { levels := 0 }⟩ } } }
    (after (.arm 0) (s 1000)).hp.seq.res.w0 = 0x0005 ∧ (after (.arm 0) (s 512)).hp.seq.res.w0 = 0x0123 := by decide

/-- Chapter 2, overlap and level conflict: RES0 is 0906H; with P2 moved, 0007H with RES1 0C80H. -/
theorem test_arm_reports_overlap_and_level_conflict :
    let s (base : Word) : State := { mc := { state := .ready }, sc := { cfg := { cfg with ports :=
      ⟨{ pcfg := 0x0041, regionSize := 128, levels := 0x0208 },
        { pcfg := 0x0043, regionBase := 256, regionSize := 64, levels := 0x0309 },
        { pcfg := 0x0041, regionBase := base, regionSize := 100, levels := 0x0C0A },
        { regionSize := 4096, levels := 0x050B }⟩ } } }
    (after (.arm 0) (s 300)).hp.seq.res.w0 = 0x0906 ∧ (after (.arm 0) (s 320)).hp.seq.res.w0 = 0x0007 ∧
      (after (.arm 0) (s 320)).hp.seq.res.w1 = 0x0C80 := by decide

/-- Chapter 4, sizing a capture burst: 7 words to 212CH, fill 13. -/
theorem test_capture_burst_of_seven :
    let d := { plain with length := 400, last := true }
    let s := withCfg .p0 { pcfg := 0x0041, regionBase := 8, levels := 0x0208 }
      (live .p0 { active with queue := [{ desc := d, progress := 300 }], fifo := words 6 ++ [mark true] ++ words 13 })
    let t := after .arbitrationPoint (after .eventAge s)
    t.mc.flight.map Flight.count = some 7 ∧ t.mc.flight.map Flight.addr = some 0x212C ∧
      (t.port .p0).fifo.length = 13 := by decide

/-- Chapter 4, sizing a replay burst: 12 words, free space 22 after the grant. -/
theorem test_replay_burst_of_twelve :
    let s := withCfg .p1 { pcfg := 0x0063, regionBase := 1, levels := 0x0309 }
      (live .p1 { active with fetch := some ⟨0, 1, 88⟩, fifo := List.replicate 30 (played false) })
    let t := after .arbitrationPoint (after .eventAge s)
    t.mc.flight.map Flight.count = some 12 ∧ (t.port .p1).freeSpace = 22 := by decide

/-- Chapter 5, DROP overrun: the first beat discarded starts the episode, the second only counts. -/
theorem test_drop_overrun :
    let s := live .p0 { active with fifo := words 64 }
    let t := after (.captureBeat .p0 0x2222 true) s
    let u := after (.captureBeat .p0 0x3333 false) t
    (t.port .p0).drop = 1 ∧ t.eu.queue.length = 1 ∧ (u.port .p0).drop = 2 ∧ u.eu.queue.length = 1 := by decide

/-- Chapter 5, replay request below the normal watermark: NORMAL with 10 words left, none with 40. -/
theorem test_replay_request_near_the_end :
    let k : PortCfg := { pcfg := 0x0043, wm := 0x3818, levels := 0x0309 }
    let x (off : Nat) : Port := { active with fetch := some ⟨0, 1, off⟩, fifo := List.replicate 50 (played false) }
    replayRequest k (x 90) = some .normal ∧ replayRequest k (x 60) = none := by decide

/-- Chapter 6, flushing a replay queue: two cancelled, the cursor stays on tag 8. -/
theorem test_flush_replay_queue :
    let e (tag : Byte) (started : Bool) : QEntry := { desc := { plain with tag := tag }, started := started }
    let s := live .p1 { active with queue := [e 7 true, e 8 true, e 9 false, e 9 false], fetch := some ⟨1, 1, 16⟩ }
    let t := after (.segFlush 1) s
    t.hp.seq.res.w0 = 2 ∧ (t.port .p1).queue = [e 7 true, e 8 true] ∧ (t.port .p1).fetch = some ⟨1, 1, 16⟩ ∧
      t.eu.queue.map (·.report) = List.replicate 2 ⟨.segCancelled, .port .p1, 9, .flush, 0⟩ := by decide

/-- Chapter 6, an interrupted replay: one SEG_ABORTED of 44 words, two SEG_CANCELLED. -/
theorem test_abort_counts_the_head :
    let e (tag : Byte) (n : Nat) : QEntry := { desc := { plain with tag := tag }, progress := n, started := true }
    let t := after (.portAbort 1) (live .p1 { active with queue := [e 10 44, e 11 0, e 12 0] })
    t.eu.queue.map (·.report) = [⟨.segAborted, .port .p1, 10, .hostAbort, 44⟩,
      ⟨.segCancelled, .port .p1, 11, .abort, 0⟩, ⟨.segCancelled, .port .p1, 12, .abort, 0⟩,
      ⟨.portClosed, .port .p1, 0, .abort, 0⟩] := by decide

/-- Chapter 7, a full log overwritten: two entries discarded, then index 20 with overwrite count 2. -/
theorem test_full_mark_log :
    let m (i : Nat) : MarkEntry := ⟨4, i, i⟩
    let x : Port := { marks := (List.range 16).map fun i => m (10 * i) }
    let y := x.logMarks 4 152 0x98
      ([mark true, mark false, mark false, mark false, mark false, mark true] ++ words 2)
    let t := after (.markRead 0) (live .p0 y)
    y.overwrites = 2 ∧ y.marks.getLast? = some ⟨4, 157, 0x9D⟩ ∧ t.hp.seq.res.w0 = 0x0204 ∧ t.hp.seq.res.w1 = 20 ∧
      (t.port .p0).marks.length = 15 ∧ (t.port .p0).overwrites = 0 := by decide

/-- Chapter 8, overflow: a full queue has refused two records. -/
def overflowed : State :=
  post ⟨.segDone, .port .p0, 4, .noDetail, 16⟩ (post ⟨.segDone, .port .p0, 3, .noDetail, 16⟩
    { armed with eu := { armed.eu with queue := records 32, seqNo := 72 } })

theorem test_overflow_is_counted :
    readValue overflowed 0x18 = 0x0260 ∧ readValue overflowed 0x16 = 0x0080 := by decide +kernel

theorem test_pop_returns_the_count : (after .evqPop overflowed).hp.dataBus = 0x0020 := by decide +kernel

theorem test_pop_reports_the_lost_records :
    ((after .evqPop overflowed).eu.queue.getLast?.map fun r => (r.report.kind, r.seqNo, r.report.count)) =
      some (.evqLost, 72, 2) := by decide +kernel

/-- R42: a byte of no 1 bits has parity bit 1, a byte of one 1 bit has parity bit 0. -/
theorem test_parity_of_a_word : parityOf 0x0100 = 1 ∧ GoodParity ⟨0x0100, 1⟩ ∧ ¬ GoodParity ⟨0x0100, 0⟩ := by decide

/-- Chapter 2, an illegal value accepted and used: with urgent limit 0 a REFRESH request is URGENT at level 0. The limit
acts at once (log entry 19). -/
theorem test_changed_urgent_limit :
    let s : State := { ready with mc := { ready.mc with owed := 1 }, hp := { cfgIndex := 2 } }
    candidates s = [⟨.refresh, .normal, 12⟩] ∧
      candidates (after (.cfgDataWrite 0x0020) s) = [⟨.refresh, .urgent, 0⟩] := by decide

/-- Section 9.16: the CRC over the words of the text 12345678, worked by hand from the rule's bit steps. -/
theorem test_crc_of_four_words : ([0x3132, 0x3334, 0x3536, 0x3738] : List Word).foldl crcWord 0xFFFF = 0xA12B ∧
    crcOver [0x3132, 0x3334, 0x3536, 0x3738] 0xFFFF = 0xA12B := by decide +kernel

/-! ### Witnesses: the whole machine, posting, pins -/

theorem test_witness_frontCommand : ({ armed with pending := [.nop 0] } : State).pending = .nop 0 :: [] := rfl

/-- Held in reset; a sleep test due; a point due; neither due, before and at the divisor. -/
theorem test_witness_emptyQueue :
    let sleepy : State := { armed with mc := { armed.mc with sleepRequest := true } }
    let waiting : State := { armed with hp := { win := { latch := .pending } } }
    (inReset.pending = [] ∧ inReset.held.isSome = true) ∧
    (sleepy.pending = [] ∧ sleepy.held = none ∧ sleepy.mc.state = .ready ∧ sleepy.mc.flight = none ∧
      sleepy.mc.owed = 0) ∧
    (waiting.pending = [] ∧ waiting.held = none ∧ waiting.mc.sleepRequest = false ∧
      candidates (settlePorts waiting) ≠ []) ∧
    (armed.pending = [] ∧ armed.held = none ∧ candidates (settlePorts armed) = [] ∧
      armed.tb.divider + 1 < armed.sc.cfg.divisor) ∧
    (let s : State := { armed with tb := { divider := 999 } };
      s.pending = [] ∧ s.held = none ∧ s.sc.cfg.divisor ≤ s.tb.divider + 1) := by decide

/-- A capture port that requests, one that does not, a replay port that requests, one that does not. -/
theorem test_witness_portRequests :
    (let x := (live .p0 { active with fifo := words 60 }).port .p0;
      x.state = .active ∧ x.queue = [entry 40] ∧ 100 - 40 ≤ x.fifo.length) ∧
    (armed.port .p0).state = .closed ∧ (armed.pcfg .p0).dir = .capture ∧
    (let x := (live .p1 { active with fetch := some ⟨0, 1, 0⟩ }).port .p1;
      x.fetch = some ⟨0, 1, 0⟩ ∧ x.queue[0]? = some (entry 40) ∧ min 16 (100 - 0) ≤ 64 - x.fifo.length) ∧
    (armed.port .p1).state = .closed ∧ (armed.pcfg .p1).dir = .replay := by decide

theorem test_witness_posting :
    ({ armed.eu with queue := records 31 } : EventUnit).queue.length ≤ 31 ∧
      32 ≤ ({ armed.eu with queue := records 32 } : EventUnit).queue.length := by decide

/-- INT_N at the tick that takes the age of the oldest record to EVQ_AGE, and one tick earlier. -/
theorem test_witness_interrupt :
    let s (tick : Word) : State := { armed with
      eu := { armed.eu with queue := records 1, intEn := 0x100, thresh := 2, age := 5 }, tb := { tickCount := tick } }
    (s 5).held = none ∧ (after .eventAge (s 5)).held = none ∧ (after .eventAge (s 5)).pins.intN = false ∧
      (after .eventAge (s 4)).pins.intN = true := by decide

/-- One state for each row of the two tables of the link pins. -/
theorem test_witness_linkPins :
    let t (p : PortId) (x : Port) := after .eventAge (live p x)
    (t .p0 active).held = none ∧ ((t .p0 active).pins.links.get .p0).ready = true ∧
    ((t .p1 { active with fifo := [played false] }).pins.links.get .p1).data = 0x00BB ∧
    ((t .p1 active).port .p1).fifo = [] ∧ ((t .p1 active).pins.links.get .p1).valid = true ∧
    ((t .p3 active).pcfg .p3).flow ≠ .fill ∧ ((t .p3 active).pins.links.get .p3).valid = false ∧
    ((t .p1 { active with state := .closing }).pins.links.get .p1).valid = false ∧
    ((t .p1 {}).pins.links.get .p1).valid = false := by decide

/-! ### Witnesses: commands -/

theorem test_witness_nop : TakesCommand State.reset := by decide

theorem test_witness_turnedAway :
    (TakesCommand armed ∧ (0x0099 : Word).extractLsb' 0 8 ∉ commandCodes) ∧
    (cmdRow (.portClose 0) = some (0x21, 0x00) ∧ TakesCommand armed ∧
      refusal armed 0x21 (portField 0x00) = some .badState) ∧
    (Listening (running .doze) ∧ ¬ SequencerIdle (running .doze)) ∧
    (hostWriteOf (.segFlush 0x03) = some (0x05, 0x0331) ∧ hostWriteOf (.undefinedCommand 0x0099) = some (0x05, 0x0099) ∧
      hostWriteOf (.registerWrite false true 0x05 0x0112) = some (0x05, 0x0112)) := by decide

/-- Each refusing check, in order: BAD_PORT, the device state, the port state. -/
theorem test_refusal_order :
    refusal State.reset 0x20 .p0 = some .badPort ∧ refusal ready 0x20 .p0 = some .badState ∧
      refusal dozing 0x20 .p0 = some .notAwake ∧ refusal (live .p0 active) 0x20 .p0 = some .badState ∧
      refusal State.reset 0x40 .p0 = some .notAwake := by decide

theorem test_witness_armAndDisarm :
    (Admitted ready 0x10 (portField 0) ∧ armCheck ready = none) ∧
    (Admitted State.reset 0x10 (portField 0) ∧ armCheck State.reset = some { code := 1 }) ∧
    Admitted armed 0x11 (portField 0) ∧
    (Admitted (live .p0 active) 0x11 (portField 0) ∧ ((live .p0 active).port .p0).state ≠ .closed) := by decide

theorem test_witness_firstFailure : Admitted State.reset 0x10 (portField 0) ∧ FirstFailure State.reset { code := 1 } :=
  ⟨by decide, Or.inl ⟨by decide, rfl⟩, fun _ _ => Nat.zero_le _⟩

theorem test_witness_allClosed : AllClosed armed := by intro p; cases p <;> decide

theorem test_witness_doze :
    (Admitted armed 0x12 (portField 0) ∧ armed.hp.win.wbuf = none) ∧
    Admitted (live .p0 active) 0x12 (portField 0) ∧
    (let s : State := { running .doze with mc := { state := .ready, sleepRequest := true } };
      s.held = none ∧ s.mc.sleepRequest = true ∧ s.mc.state = .ready ∧ s.mc.flight = none ∧ s.mc.owed = 0) ∧
    (let s : State := { running .doze with mc := { state := .ready, sleepRequest := true, owed := 1 } };
      s.held = none ∧ s.mc.owed ≠ 0) ∧
    Admitted dozing 0x13 (portField 0) := by decide

theorem test_witness_portOpen : Admitted armed 0x20 (portField 3) := by decide

/-- A capture drain at its end, a replay drain at its end, a silent replay link, and two drains that go on. -/
theorem test_witness_portClose :
    let dead := live .p0 active
    let done := live .p1 active
    let silent := live .p1 { active with fifo := [played false], idleDeclared := true }
    let going := live .p1 { active with fifo := [played false] }
    let full := live .p0 { active with fifo := words 1 }
    (Admitted dead 0x21 (portField 0) ∧ liveFlight dead .p0 = false ∧ (dead.port .p0).fifo = []) ∧
    (Admitted done 0x21 (portField 1) ∧ (done.port .p1).fifo = [] ∧ (done.port .p1).reservation = 0) ∧
    (Admitted silent 0x21 (portField 1) ∧ (silent.port .p1).fifo ≠ [] ∧ (silent.port .p1).idleDeclared = true) ∧
    (Admitted going 0x21 (portField 1) ∧ (going.port .p1).fifo ≠ [] ∧ (going.port .p1).idleDeclared = false) ∧
    (Admitted full 0x21 (portField 0) ∧ (full.port .p0).fifo ≠ [] ∧ (full.port .p0).queue ≠ []) := by decide

theorem test_witness_portAbort :
    let fault := live .p0 { state := .faulted }
    let busy := flying { kind := .writeBurst, who := .port .p0, count := 4 } (live .p0 active)
    (Admitted (live .p0 active) 0x22 (portField 0) ∧ liveFlight (live .p0 active) .p0 = false) ∧
    (Admitted busy 0x22 (portField 0) ∧ liveFlight busy .p0 = true) ∧
    (Admitted fault 0x22 (portField 0) ∧ (fault.port .p0).state = .faulted ∧ liveFlight fault .p0 = false) ∧
    Admitted fault 0x21 (portField 0) := by decide

/-- SEG_POST: a bad format, a range one word too long, a full queue, and one that just fits. -/
theorem test_witness_segPost :
    let s (a : Args) := withArgs a (live .p0 { state := .idle })
    let full := withArgs { a3 := 4 } (live .p0 { active with queue := List.replicate 8 (entry 0) })
    (Admitted (s {}) 0x30 (portField 0) ∧ (segPostDesc (s {}).hp.seq.args).length = 0) ∧
    (segFormatOk .capture { a3 := 1025 } = true ∧ (segPostDesc { a3 := 1025 }).length = 1025 ∧
      Admitted (s { a3 := 1025 }) 0x30 (portField 0)) ∧
    (Admitted full 0x30 (portField 0) ∧ 8 ≤ (full.port .p0).queue.length) ∧
    (Admitted (s { a3 := 1024 }) 0x30 (portField 0) ∧ segFormatOk .capture { a3 := 1024 } = true ∧
      (segPostDesc { a3 := 1024 }).length ≤ ((s { a3 := 1024 }).pcfg .p0).sizeUnits * 1024) := by decide

theorem test_witness_segFlush :
    Admitted (live .p0 active) 0x31 (portField 0) ∧ ((live .p0 active).pcfg .p0).dir = .capture ∧
      ((live .p0 active).port .p0).queue ≠ [] ∧
      Admitted (live .p1 active) 0x31 (portField 1) ∧ ((live .p1 active).pcfg .p1).dir = .replay := by decide

theorem test_witness_queueStatus :
    (Admitted armed 0x32 (portField 0) ∧ (armed.port .p0).queue.length ≤ 8) ∧
    (Admitted (live .p0 active) 0x32 (portField 0) ∧ ((live .p0 active).port .p0).state = .active) ∧
    (let s := live .p1 { active with fetch := some ⟨0, 1, 0⟩ };
      Admitted s 0x32 (portField 1) ∧ (s.port .p1).queue[0]? = some (entry 40)) ∧
    (Admitted (live .p1 active) 0x32 (portField 1) ∧ ((live .p1 active).port .p1).fetch = none) := by decide

theorem test_witness_markRead :
    Admitted armed 0x33 (portField 1) ∧ (Admitted armed 0x33 (portField 0) ∧ (armed.port .p0).marks = []) ∧
      (let s := live .p0 { marks := [⟨3, 4194303, 4194303⟩], overwrites := 255 };
        Admitted s 0x33 (portField 0) ∧ (s.port .p0).marks = [⟨3, 4194303, 4194303⟩] ∧
          (s.port .p0).overwrites ≤ 255) := by decide

/-- MEM_FILL and REGION_CRC: no word asked for, a range in an open capture region, and the whole memory. -/
theorem test_witness_memoryCommands :
    (Admitted armed 0x40 (portField 0) ∧ memArgOk armed.sc.cfg.memorySize {} = false) ∧
    (Admitted (live .p0 active) 0x40 (portField 0) ∧ memArgOk 1048576 { a1 := 1023, a3 := 1 } = true ∧
      protectedRange (live .p0 active) 1023 1 = true) ∧
    (protectedRange (live .p0 active) 1024 1 = false ∧ memArgOk 1048576 { a4 := 16 } = true) ∧
    Admitted armed 0x41 (portField 0) := by decide

/-! ### Witnesses: other host accesses -/

theorem test_witness_softReset :
    (armed.held = none ∧ (0x0001 : Word).getLsbD 0 = true ∧ armed.sc.resetPending = false ∧ armed.mc.flight = none) ∧
    (flying { kind := .refresh, who := .refresh } armed).mc.flight ≠ none ∧
    (pendingReset.held = none ∧ pendingReset.sc.resetPending = true ∧ pendingReset.mc.flight = none) ∧
    ¬ (armed.sc.resetPending = true ∧ armed.mc.flight = none) := by decide

/-- A transaction in flight with a soft reset pending, and the row that completes it. -/
theorem test_witness_deferredReset :
    let f : Flight := { kind := .refresh, who := .refresh }
    let s := flying f pendingReset
    s.held = none ∧ s.sc.resetPending = true ∧ s.mc.flight = some f ∧ Completes .refreshCompletion f :=
  ⟨rfl, rfl, rfl, .inr (.inr (.inr (.inr (.inr (.inr (.inl ⟨rfl, rfl⟩))))))⟩

/-- A soft reset pending is applied by the completion of the REFRESH it waits for (R178). -/
theorem test_completion_applies_the_pending_reset :
    let s := flying { kind := .refresh, who := .refresh } pendingReset
    (after .refreshCompletion s).sc.resetCause = .soft ∧ (after .refreshCompletion s).sc.device = .setup := by decide

theorem test_witness_cmdCancel :
    let j : Job := { start := 0, count := 32, covered := 16 }
    let s := running (.memFill j 0)
    let c := running (.regionCrc j 0 0)
    let busy := flying { kind := .writeBurst, who := .host, count := 16 }
    let crc := flying { kind := .readBurst, who := .host, count := 16 }
    (s.held = none ∧ (0x0002 : Word).getLsbD 1 = true ∧ (0x0002 : Word).getLsbD 0 = false ∧
      s.hp.seq.running = some (.memFill j 0) ∧ j.cancel = false ∧ chunkGranted s = false) ∧
    chunkGranted (busy s) = true ∧ (c.hp.seq.running = some (.regionCrc j 0 0) ∧ chunkGranted c = false) ∧
    chunkGranted (crc c) = true ∧ (jobOf armed).all (·.cancel) = true := by decide

theorem test_witness_listening : Listening armed := by decide

theorem test_witness_summaryAndPop :
    State.reset.eu.queue = [] ∧ State.reset.held = none ∧
    (let e : EventUnit := { queue := records 1 };
      e.queue.length = 1 ∧ e.lost = false) ∧
    (let e : EventUnit := { queue := records 32, lost := true, lostCount := 255 };
      e.lost = true ∧ e.lostCount ≤ 255 ∧ e.queue.length = 32) := by decide

theorem test_witness_winAddr :
    (Listening State.reset ∧ State.reset.mc.state ≠ .ready) ∧
    (let s := running (.memFill { start := 0, count := 1 } 0);
      Listening s ∧ s.mc.state = .ready ∧ jobOf s ≠ none) ∧
    (Listening armed ∧ jobOf armed = none ∧ armed.sc.cfg.memorySize ≤ 16 % 64 * 65536 + 0 ∧
      15 % 64 * 65536 + 65535 < armed.sc.cfg.memorySize) := by decide

theorem test_witness_winDataRead :
    let s (a : BitVec 22) (l : Latch) : State := { armed with hp := { armed.hp with win := { addr := a, latch := l } } }
    ((s 0x0FFFFE (.ready 7)).hp.win.latch = .ready 7 ∧ jobOf (s 0 .empty) = none ∧
      (0x0FFFFE + 1) % 4194304 < (s 0 .empty).sc.cfg.memorySize) ∧
    ¬ ((0x0FFFFF + 1) % 4194304 < (s 0x0FFFFF (.ready 7)).sc.cfg.memorySize) ∧
    (s 0 .empty).hp.win.latch = .empty ∧ (s 0 .pending).hp.win.latch = .pending := by decide

/-- Each test of a WIN_DATA write fails in its turn, and the word after the protected region passes all five. -/
theorem test_witness_winDataWrite :
    let at' (a : BitVec 22) (b : Option Buffered) (s : State) : State :=
      { s with hp := { s.hp with win := { addr := a, wbuf := b } } }
    let open0 := live .p0 active
    winWriteRefusal State.reset = some 0x20 ∧
    winWriteRefusal (running (.regionCrc { start := 0, count := 1 } 0 0)) = some 0x40 ∧
    winWriteRefusal (at' 0x100000 none armed) = some 0x01 ∧ winWriteRefusal (at' 1023 none open0) = some 0x02 ∧
    winWriteRefusal (at' 1024 (some ⟨7, 9⟩) open0) = some 0x04 ∧
    winWriteRefusal (at' 1024 none open0) = none ∧ Listening (at' 1024 none open0) := by decide

theorem test_witness_cfgData :
    let at' (i : BitVec 6) (s : State) : State := { s with hp := { s.hp with cfgIndex := i } }
    (Listening armed ∧ armed.sc.device ≠ .setup) ∧
    (let s : State := { at' 0 ready with mc := { state := .init } };
      s.hp.cfgIndex.toNat = 0 ∧ s.mc.state = .init) ∧
    ((at' 4 ready).sc.device = .setup ∧ (at' 4 ready).hp.cfgIndex.toNat = 4 ∧ (0x0580 : Word).getLsbD 15 = false) ∧
    ((at' 3 ready).sc.device = .setup ∧ (at' 3 ready).hp.cfgIndex.toNat = 3) := by decide

theorem test_witness_configurationIndex : (0x0B : BitVec 6) ≠ 1 ∧ (0x13 : BitVec 6) ≠ 0x0B := by decide

/-- START from OFF, from INIT, from READY with a prefetch and a write waiting, and with a memory command running. -/
theorem test_witness_start :
    let at' (m : MemCtl) (w : Window) : State :=
      { ready with mc := m, hp := { cfgIndex := 1, win := w } }
    let waiting := at' { state := .ready } { latch := .pending, wbuf := some ⟨7, 9⟩ }
    let fill : State := { at' { state := .ready } {} with
      hp := { cfgIndex := 1, seq := { running := some (.memFill { start := 0, count := 1 } 0) } } }
    (Listening waiting ∧ waiting.sc.device = .setup ∧ waiting.hp.cfgIndex = 1 ∧ (0x0001 : Word).getLsbD 0 = true ∧
      waiting.mc.state = .ready ∧ jobOf waiting = none) ∧
    (at' {} {}).mc.state = .off ∧ (at' { state := .init } {}).mc.state = .init ∧
    chunkGranted (flying { kind := .writeBurst, who := .host } waiting) = true ∧
    (chunkGranted fill = false ∧ fill.hp.seq.running = some (.memFill { start := 0, count := 1 } 0)) ∧
    (let crc := busy (.regionCrc { start := 0, count := 1 } 0xFFFF 0) waiting;
      Listening crc ∧ crc.mc.state = .ready ∧ chunkGranted crc = false) := by decide

theorem test_witness_settled : armed.held = none ∧ Settled armed := by decide

theorem test_witness_ignored :
    hostWriteOf (.winDataWrite 7) = some (0x22, 7) ∧ pendingReset.sc.resetPending = true ∧ Settled pendingReset := by
  decide

/-- A full FIFO and a full queue still fit PSTAT's fields. -/
theorem test_witness_plainReads :
    let x : Port := { active with queue := List.replicate 8 (entry 0), fifo := words 64 }
    let sel (i : BitVec 6) : Nat := ({ cfgIndex := i } : HostPort).cfgIndex.toNat
    ((records 32).length ≤ 32 ∧ sel 1 = 1 ∧ sel 0x27 = 15 + 8 * portIndex .p3 ∧ sel 0x26 = 14 + 8 * portIndex .p3 ∧
      fieldMask (sel 5) = 0 ∧ fieldMask (sel 0x27) = 0 ∧ fieldMask (sel 0x28) = 0) ∧
    x.queue.length ≤ 8 ∧ x.fifo.length ≤ 64 ∧ (0x25 : BitVec 6) ∉ [(0x14 : BitVec 6), 0x15, 0x16, 0x19, 0x22] := by
  decide

/-! ### Witnesses: links -/

theorem test_witness_captureLink :
    let full (p : PortId) := live p { active with fifo := words 64 }
    let stall := withCfg .p0 { pcfg := 0x0045, levels := 0x0208 } (full .p0)
    ((live .p0 { active with fifo := words 63 }).pcfg .p0).dir = .capture ∧
    ((full .p0).pcfg .p0).flow = .drop ∧ ((full .p2).pcfg .p2).flow = .fault ∧ ((full .p2).pcfg .p2).dir = .capture ∧
    ((stall.pcfg .p0).flow = .stall ∧ (stall.port .p0).overrun = false ∧ 64 ≤ (stall.port .p0).fifo.length) := by
  decide

/-- Beats that do not cross: a CLOSING capture port with room, a stalled one whose episode runs, a replay port that
closes with an empty FIFO, one that holds and whose episode runs, and a link of the other direction. -/
theorem test_witness_beatsThatDoNotCross :
    let closing (p : PortId) := live p { active with state := .closing }
    let stall := withCfg .p0 { pcfg := 0x0045, levels := 0x0208 }
      (live .p0 { active with fifo := words 64, overrun := true })
    let hold := live .p3 { active with underrun := true }
    (((closing .p0).pcfg .p0).dir = .capture ∧ ((closing .p0).port .p0).state = .closing ∧
      ((closing .p0).port .p0).fifo.length < 64) ∧
    ((stall.pcfg .p0).flow = .stall ∧ (stall.port .p0).overrun = true ∧ 64 ≤ (stall.port .p0).fifo.length) ∧
    (((closing .p1).port .p1).state = .closing ∧ ((closing .p1).port .p1).fifo = [] ∧
      ((closing .p1).pcfg .p1).dir = .replay) ∧
    ((hold.pcfg .p3).flow = .hold ∧ (hold.port .p3).fifo = [] ∧ (hold.port .p3).underrun = true) := by decide

/-- No beat is accepted while a capture port closes (R126). -/
theorem test_closing_port_takes_no_beat :
    ((after (.captureBeat .p0 7 false) (live .p0 { active with state := .closing })).port .p0).fifo = [] := by decide

theorem test_witness_replayLink :
    let emits (f : Bool) := live .p1 { active with fifo := [played f] }
    let drains := live .p1 { active with state := .closing, fifo := [played false, played false] }
    (((emits false).port .p1).fifo = played false :: [] ∧ ((emits false).port .p1).queue = entry 40 :: [] ∧
      ((played false).boundary.map (·.final)) = some false) ∧
    ((played true).boundary.map (·.final)) = some true ∧
    ((drains.port .p1).state = .closing ∧ (drains.port .p1).fifo = played false :: [played false]) ∧
    (((live .p1 active).port .p1).fifo = [] ∧ ((live .p1 active).pcfg .p1).flow = .fill) ∧
    (((live .p3 active).pcfg .p3).flow = .hold ∧ ((live .p3 active).port .p3).underrun = false) := by decide

theorem test_witness_doneOfTheHead : ((live .p0 active).port .p0).queue = entry 40 :: [] := rfl

theorem test_witness_markLog :
    let x : Port := { marks := List.replicate 16 ⟨3, 0, 0⟩, overwrites := 255 }
    x.marks.length ≤ 16 ∧ x.overwrites ≤ 255 := by decide

/-! ### Witnesses: ticks -/

/-- Not READY; below the interval; at it with owed 6; at it with owed 7; each case of a link's idle count. -/
theorem test_witness_tick :
    let s (m : MemCtl) : State := { armed with mc := m }
    let k (p : PortId) (pcfg : Word) (x : Port) := withCfg p { pcfg := pcfg, levels := 0, linkIdle := 3 } (live p x)
    ((s {}).held = none ∧ (s {}).mc.state ≠ .ready) ∧
    ((s { state := .ready, intervalCount := 30 }).mc.intervalCount + 1 < 32 ∧ armed.sc.cfg.interval = 32) ∧
    (32 ≤ (s { state := .ready, intervalCount := 31, owed := 6 }).mc.intervalCount + 1) ∧
    (7 ≤ (s { state := .ready, intervalCount := 31, owed := 7, lossEpisode := true }).mc.owed) ∧
    (idleReached (k .p0 0x0041 { active with idleCount := 1 }) .p0 = false ∧
      idleRuns ((k .p0 0x0041 active).pcfg .p0) active = true) ∧
    idleReached (k .p0 0x0041 { active with idleCount := 2 }) .p0 = true ∧
    (let t := k .p1 0x0043 { active with state := .closing, idleCount := 2 };
      idleReached t .p1 = true ∧ (t.pcfg .p1).dir = .replay) := by decide

/-! ### Witnesses: completions -/

theorem test_witness_memoryWrites :
    ([7, 8] : List Word).length ≤ 1048576 ∧ ([7, 8] : List Word)[1]? = some 8 := by decide

/-- A word not written is another cell. -/
theorem test_witness_otherCell : ∀ k, k < ([7] : List Word).length → cellOf 5 ≠ cellOf (6 + k) := by
  intro k hk
  obtain rfl : k = 0 := by simpa using hk
  unfold cellOf
  generalize Config.attachedSelect = n
  match n with
  | 0 => decide
  | 1 => decide
  | 2 => decide

/-- A burst that ends at a SPLIT mark, one that finishes the descriptor, one that does neither. -/
theorem test_witness_writeBurst :
    let f (n : Nat) (m : Bool) : Flight :=
      { kind := .writeBurst, who := .port .p0, count := n, words := words 3 ++ [mark m] }
    let s := flying (f 4 true) (live .p0 { active with queue := [{ entry 40 with desc := { plain with last := true } }] })
    let t (n : Nat) := flying (f n false) (live .p0 active)
    (Listening s ∧ s.mc.flight = some (f 4 true) ∧ s.mc.init = .idle ∧ (s.port .p0).state = .active ∧
      s.hp.seq.running ≠ some (.portAbort .p0) ∧ (f 4 true).words.getLast? = some (mark true)) ∧
    40 + (f 60 false).count = plain.length ∧ 40 + (f 4 false).count ≠ plain.length ∧ Listening (t 60) ∧
    (let c := flying (f 60 false) (live .p0 { active with state := .closing });
      Listening c ∧ (c.port .p0).state = .closing ∧ (c.port .p0).queue = entry 40 :: []) := by decide

/-- The drain of a CLOSING capture port ends at the completion that finishes its last descriptor (R127, R128). -/
theorem test_capture_drain_ends_at_the_completion :
    let f : Flight := { kind := .writeBurst, who := .port .p0, count := 60, words := words 60 }
    ((after .writeBurstCompletion (flying f (live .p0 { active with state := .closing }))).port .p0).state = .closed := by
  decide +kernel

theorem test_witness_orphan :
    let f (k : Kind) : Flight := { kind := k, who := .port .p0, count := 4, orphan := true }
    Listening (flying (f .writeBurst) armed) ∧ (flying (f .writeBurst) armed).mc.init = .idle ∧
      (f .writeBurst).orphan = true ∧ Listening (flying (f .readBurst) armed) := by decide

/-- A bad word is one written with wrong parity; P1 marks it, P3 faults. -/
theorem test_witness_readBurst :
    let f (p : PortId) : Flight := { kind := .readBurst, who := .port p, count := 1 }
    let s (p : PortId) := flying (f p) (live p active)
    (Listening (s .p1) ∧ (s .p1).mc.flight = some (f .p1) ∧ ((s .p1).port .p1).state = .active ∧
      ((s .p1).pcfg .p1).parityFault = false) ∧
    ((s .p3).pcfg .p3).parityFault = true ∧
    ((flying (f .p3) (live .p3 { active with state := .closing })).port .p3).state = .closing ∧
    isBad ⟨7, parityOf 7⟩ = false ∧ isBad ⟨7, ~~~ parityOf 7⟩ = true := by
  decide

theorem test_witness_windowCompletions :
    let f (k : Kind) (o : Bool) : Flight := { kind := k, who := .host, count := 1, orphan := o }
    Listening (flying (f .wordRead false) armed) ∧ (flying (f .wordRead false) armed).mc.init = .idle ∧
      (f .wordRead true).orphan = true ∧ Listening (flying (f .wordWrite false) armed) ∧
      (let s : State := { ready with mc := { state := .init, init := .awaiting, flight := some (f .wordRead false) } };
        Listening s ∧ s.mc.flight = some (f .wordRead false) ∧ s.mc.init = .awaiting) := by decide

theorem test_witness_refreshAndInit :
    let r : Flight := { kind := .refresh, who := .refresh }
    let i (k : Nat) : State := { ready with mc :=
      { state := .init, init := .step 8 false k, flight := some (initFlight false 8 k) } }
    (Listening (flying r armed) ∧ (flying r armed).mc.state = .ready ∧ (flying r armed).mc.init = .idle) ∧
    (let s : State := { ready with mc := { state := .init, init := .awaiting, flight := some r } };
      Listening s ∧ s.mc.state = .init) ∧
    (Listening (i 8) ∧ (initFlight false 8 8).who = .controller ∧ (i 8).mc.init = .step 8 false 8) ∧
    (i 9).mc.init = .step 8 false 9 ∧ (initFlight false 8 9).kind = .modeLoad := by decide

/-- A chunk in flight of each memory command; cancelled, out of READY, at its end, and going on. -/
theorem test_witness_chunks :
    let j (c : Bool) (n : Nat) : Job := { start := 0, count := 32, covered := n, cancel := c }
    let f (k : Kind) : Flight := { kind := k, who := .host, count := 16 }
    let fill := flying (f .writeBurst) (running (.memFill (j false 16) 7))
    let crc := flying (f .readBurst) (running (.regionCrc (j false 0) 0xFFFF 65535))
    (Listening fill ∧ fill.mc.flight = some (f .writeBurst) ∧ fill.mc.init = .idle ∧ fill.mc.state = .ready ∧
      fill.hp.seq.running = some (.memFill (j false 16) 7) ∧ (j false 16).count ≤ 16 + 16) ∧
    (Listening crc ∧ crc.mc.state = .ready ∧ crc.hp.seq.running = some (.regionCrc (j false 0) 0xFFFF 65535) ∧
      0 + 16 < (j false 0).count) ∧
    (let started : State := { fill with mc := { fill.mc with state := .init, init := .awaiting } };
      Listening started ∧ started.mc.flight = some (f .writeBurst) ∧ started.mc.state ≠ .ready ∧
        (j true 16).cancel = true) := by decide

/-- Section 3.3: a chunk that completes after a START ends its command NOT_AWAKE, and PRECHARGE_ALL is issued. -/
theorem test_chunk_after_start :
    let s := flying { kind := .writeBurst, who := .host, count := 16, words := words 16 }
      (running (.memFill { start := 0, count := 16 } 7))
    let t := after .memFillChunkCompletion { s with mc := { s.mc with state := .init, init := .awaiting } }
    t.hp.seq.result = .notAwake ∧ t.mc.flight = some { kind := .prechargeAll, who := .controller } := by decide +kernel

theorem test_witness_abortAndDrain :
    let f (k : Kind) (p : PortId) : Flight := { kind := k, who := .port p, count := 4 }
    let s := busy (.portAbort .p0) (live .p0 active)
    let d (p : PortId) := live p { active with state := .closing }
    (Listening (flying (f .writeBurst .p0) s) ∧ s.hp.seq.running = some (.portAbort .p0) ∧ s.mc.flight = none) ∧
    (let t := busy (.portAbort .p1) (live .p1 active);
      Listening (flying (f .readBurst .p1) t) ∧ t.hp.seq.running = some (.portAbort .p1)) ∧
    drainEnded (d .p0) .p0 = true ∧ drainEnded (d .p1) .p1 = true ∧ ((d .p0).port .p0).state = .closing ∧
    drainEnded (live .p1 { active with state := .closing, fifo := [played false] }) .p1 = false := by decide

/-- Rows sent with nothing due: no abort waits, an abort waits for the transaction in flight, no transaction is in
flight, and the one in flight is another row's. -/
theorem test_witness_nothingDue :
    let f : Flight := { kind := .refresh, who := .refresh }
    let s := flying f (busy (.portAbort .p0) (live .p0 active))
    (armed.held = none ∧ ∀ q, armed.hp.seq.running ≠ some (.portAbort q)) ∧
    (s.held = none ∧ s.mc.flight ≠ none) ∧
    (.wordReadCompletion ∈ completionRows ∧ ∀ g, armed.mc.flight = some g → ¬ Completes .wordReadCompletion g) ∧
    (.writeBurstCompletion ∈ completionRows ∧ ∀ g, s.mc.flight = some g → ¬ Completes .writeBurstCompletion g) := by
  refine ⟨⟨rfl, fun q => by cases q <;> decide⟩, ⟨rfl, by decide⟩, ⟨by decide, nofun⟩, by decide, ?_⟩
  rintro g hg (⟨-, hk, -⟩ | ⟨hc, -⟩ | ⟨hc, -⟩ | ⟨hc, -⟩ | ⟨hc, -⟩ | ⟨hc, -⟩ | ⟨hc, -⟩ | ⟨hc, -⟩)
  · cases hg; cases hk
  all_goals cases hc

/-! ### Witnesses: arbitration -/

/-- No request; a prefetch alone; and a HELD host alone, which the release opens. -/
theorem test_witness_arbitrationPoint :
    let s (h : Fair) : State := settle { armed with
      hp := { armed.hp with win := { latch := .pending } }, ma := { armed.ma with host := h } }
    (armed.held = none ∧ armed.mc.state = .ready ∧ armed.mc.flight = none ∧ armed.mc.sleepRequest = false ∧
      candidates armed = []) ∧
    ((s .opened).held = none ∧ Settled (s .opened) ∧ (s .opened).mc.state = .ready ∧
      (s .opened).mc.sleepRequest = false ∧
      candidates (s .opened) = [⟨.host, .normal, 13⟩]) ∧
    (Settled (s .held) ∧ candidates (s .held) = [⟨.host, .normal, 13⟩] ∧ (s .held).ma.host = .held) := by
  decide

/-- No point is held: a transaction in flight, SLEEP, the sleep test due. -/
theorem test_witness_noArbitrationPoint :
    (flying { kind := .refresh, who := .refresh } armed).mc.flight ≠ none ∧ dozing.mc.state ≠ .ready ∧
    (let s : State := { running .doze with mc := { state := .ready, sleepRequest := true } };
      s.held = none ∧ s.mc.sleepRequest = true ∧ s.mc.owed = 0) := by decide

theorem test_witness_grants :
    let w (b : Option Buffered) (l : Latch) (r : Option Running) : State :=
      { armed with hp := { seq := { running := r }, win := { latch := l, wbuf := b } } }
    let j : Job := { start := 0, count := 20, covered := 16 }
    (((live .p0 active).pcfg .p0).burstCode ≤ 3 ∧ ((live .p0 active).port .p0).queue = entry 40 :: []) ∧
    (let s := live .p1 { active with fetch := some ⟨0, 1, 96⟩ };
      (s.pcfg .p1).dir = .replay ∧ (s.port .p1).fetch = some ⟨0, 1, 96⟩ ∧
        (s.port .p1).queue[0]? = some (entry 40)) ∧
    (w (some ⟨7, 9⟩) .pending none).hp.win.wbuf = some ⟨7, 9⟩ ∧
    (w none .empty (some (.memFill j 7))).hp.seq.running = some (.memFill j 7) ∧
    (w none .empty (some (.regionCrc j 7 0))).hp.seq.running = some (.regionCrc j 7 0) ∧
    jobOf (w none .pending (some .doze)) = none := by decide

/-- A NORMAL completion of HOST and one of P0 while the other waits; an URGENT one; one with nobody waiting. -/
theorem test_witness_fairness :
    let s (g : Option Grant) : State := { live .p0 { active with fifo := words 20 } with
      hp := { win := { latch := .pending } }, ma := { grant := g } }
    (s none).ma.grant = none ∧
    (candidates (settlePorts (s (some ⟨.host, .normal⟩)))).map (·.who) = [.host, .port .p0] ∧
    (s (some ⟨.port .p0, .normal⟩)).sc.cfg.fairness = true ∧
    ((s none).port .p0).state ≠ .closed ∧
    (s (some ⟨.port .p0, .urgent⟩)).ma.grant = some ⟨.port .p0, .urgent⟩ ∧
    candidates (settlePorts armed) = [] := by decide

/-! ### Witnesses: resets and invariants -/

theorem test_witness_resets :
    armed.held ≠ some .power ∧ inReset.held = some .pin ∧ isReset .tick = false ∧
      ({ inReset with held := some .power } : State).held = some .power ∧ armed.held = none := by decide

theorem test_witness_memoryCanonical : MemoryCanonical { armed with mc := { state := .ready, mem := [(5, ⟨7, parityOf 7⟩)] } } := by
  decide

theorem test_witness_eventUnitSound :
    EventUnitSound { armed with eu := { queue := records 1, seqNo := 41, age := 255 } } := by decide

theorem test_witness_portsSound : PortsSound (live .p0 active) := by
  intro p
  cases p <;> decide

/-- P1 has emitted 40 words of 100, holds the next in its FIFO and waits for two more. -/
def playing : State :=
  flying { kind := .readBurst, who := .port .p1, count := 2,
           slots := [⟨false, ⟨plain, 1, 41, false⟩⟩, ⟨false, ⟨plain, 1, 42, false⟩⟩] }
    (live .p1 { active with
      reservation := 2
      fetch := some ⟨0, 1, 43⟩
      fifo := [{ word := 7, mark := false, boundary := some ⟨plain, 1, 40, false⟩ }] })

theorem test_witness_configurationSound : ConfigurationSound playing := by
  refine ⟨fun _ => ?_, fun p _ => ?_⟩
  · constructor <;> first
      | decide
      | (intro p hp; cases p <;> constructor <;> decide)
      | (intro p q hpq; cases p <;> cases q <;> first | exact absurd rfl hpq | decide)
  · cases p <;> decide

theorem test_witness_transfersSound : TransfersSound playing := by
  intro p
  cases p
  case p1 =>
    refine ⟨⟨by decide, ?_⟩, by decide, ?_, fun _ => ⟨?_, ?_, ?_, ?_, ?_⟩⟩
    · rintro h t ⟨⟩
      decide
    · rintro f ⟨⟩ - -
      exact ⟨by decide, fun h => absurd h (by decide), fun _ => ⟨rfl, rfl⟩⟩
    · intro i e h
      match i, h with
      | 0, rfl => exact ⟨_, rfl, by decide⟩
    · intro i sl h
      match i, h with
      | 0, rfl => decide
      | 1, rfl => decide
    · rintro c ⟨⟩
      exact ⟨_, rfl, by decide⟩
    · intro h
      exact absurd h (by decide)
    · intro i e h
      match i, h with
      | 0, rfl => decide
  all_goals
    refine Laws.transfers_of_empty rfl rfl rfl rfl ?_
    rintro f ⟨⟩ hw
    exact absurd hw (by decide)

theorem test_witness_fairnessSound : FairnessSound (live .p0 active) := by
  refine ⟨fun h => ?_, fun p _ => ?_⟩
  · exact absurd h (by decide)
  · cases p <;> rfl

theorem test_witness_controllerSound : ControllerSound armed := by
  refine ⟨⟨fun h => absurd rfl h, by decide, by decide, by decide, fun h => absurd h (by decide)⟩,
    ⟨by decide, by decide, rfl, by decide, by decide, ?_⟩, by decide⟩
  intro p h
  exact absurd h (by cases p <;> decide)

/-- Every invariant's premise is met together with a step. -/
theorem test_witness_step : step { armed with pending := [.eventAge] } = .next (settle armed) := rfl

end Sys2Proof.Tests
end

/-! PROOFS. The transfer enables (R4), and the memory window's address writes and data read (R12 to R14). -/

namespace Sys2Proof.Proofs

open Sys2Proof.Machine Sys2Proof.Safety Sys2Proof.Laws

/-! ### The rows as register accesses -/

theorem exec_xenSet {s : State} (h : Listening s) (w : Word) :
    exec (.xenSet w) s = .next (settle (writeXenSet w s)) := hostWrite_listening h offXenSet w

theorem exec_xenClr {s : State} (h : Listening s) (w : Word) :
    exec (.xenClr w) s = .next (settle (writeXenClr w s)) := hostWrite_listening h offXenClr w

theorem exec_winAddrLoWrite {s : State} (h : Listening s) (w : Word) :
    exec (.winAddrLoWrite w) s = .next (settle (writeWinAddrLo w s)) := hostWrite_listening h offWinAddrLo w

theorem exec_winAddrHiWrite {s : State} (h : Listening s) (w : Word) :
    exec (.winAddrHiWrite w) s = .next (settle (writeWinAddrHi w s)) := hostWrite_listening h offWinAddrHi w

theorem exec_winDataRead {s : State} (h : s.held = none) :
    exec .winDataRead s = .next (settle (driveBus (winDataValue s) (readWinData s))) := hostRead_running h offWinData

/-! ### Transfer enables (R4) -/

theorem working_iff (x : PState) : x.working = true ↔ x = .idle ∨ x = .active := by
  cases x <;> simp [PState.working]

theorem writeXenSet_get (w : Word) (s : State) (p : PortId) : (writeXenSet w s).ports.get p =
    if w.getLsbD (portIndex p) = true ∧ ((s.port p).state = .idle ∨ (s.port p).state = .active) then
      { s.port p with xen := true }
    else s.port p :=
  (Quad.get_map _ _ _).trans (if_congr (by simp [flag, working_iff]) rfl rfl)

theorem writeXenClr_get (w : Word) (s : State) (p : PortId) : (writeXenClr w s).ports.get p =
    if w.getLsbD (portIndex p) = true then { s.port p with xen := false } else s.port p := Quad.get_map _ _ _

/-- Settles O25: each port of the new quad is one branch of `writeXenSet_get` or `writeXenClr_get`. -/
theorem xenSetAndClr : Obligations.XenSetAndClr := by
  intro w s h
  refine ⟨⟨(writeXenSet w s).ports, exec_xenSet h w, fun p => ⟨fun hp => ?_, fun hp => ?_⟩⟩,
    ⟨(writeXenClr w s).ports, exec_xenClr h w, fun p => ⟨fun hp => ?_, fun hp => ?_⟩⟩⟩
  · exact (writeXenSet_get w s p).trans (if_pos hp)
  · exact (writeXenSet_get w s p).trans (if_neg hp)
  · exact (writeXenClr_get w s p).trans (if_pos hp)
  · exact (writeXenClr_get w s p).trans (if_neg hp)

/-! ### The window address as a number -/

theorem high_append_word (a : BitVec 22) (w : Word) :
    a.extractLsb' 16 6 ++ w = BitVec.ofNat 22 (a.toNat / 65536 * 65536 + w.toNat) := by
  apply BitVec.eq_of_toNat_eq
  have hw := w.isLt
  rw [BitVec.toNat_append, ← Nat.shiftLeft_add_eq_or_of_lt hw]
  simp [Nat.shiftRight_eq_div_pow, Nat.shiftLeft_eq]
  omega

theorem low_append_low (a : BitVec 22) (w : Word) :
    w.extractLsb' 0 6 ++ a.extractLsb' 0 16 = BitVec.ofNat 22 (w.toNat % 64 * 65536 + a.toNat % 65536) := by
  apply BitVec.eq_of_toNat_eq
  rw [BitVec.toNat_append, ← Nat.shiftLeft_add_eq_or_of_lt (a.extractLsb' 0 16).isLt]
  simp [Nat.shiftLeft_eq]
  omega

/-- WIN_ADDR wraps from 3FFFFFH to 0 (R14). -/
theorem winAddr_succ (a : BitVec 22) : a + 1 = BitVec.ofNat 22 ((a.toNat + 1) % 4194304) := by
  apply BitVec.eq_of_toNat_eq
  simp

/-! ### The three conditions of a prefetch (R12) -/

theorem memCommandRunning_iff (s : State) : memCommandRunning s = true ↔ jobOf s ≠ none := by
  unfold memCommandRunning jobOf
  cases s.hp.seq.running with
  | none => simp
  | some r => cases r <;> simp

theorem prefetchRefusal_eq (s : State) : prefetchRefusal s =
    if s.mc.state ≠ .ready then some 0x20
    else if jobOf s ≠ none then some 0x40
    else if s.sc.cfg.memorySize ≤ s.hp.win.addr.toNat then some 0x01
    else none :=
  if_congr Iff.rfl rfl (if_congr (memCommandRunning_iff s) rfl rfl)

theorem prefetchRefusal_eq_none_iff (s : State) : prefetchRefusal s = none ↔
    s.mc.state = .ready ∧ jobOf s = none ∧ s.hp.win.addr.toNat < s.sc.cfg.memorySize := by
  rw [prefetchRefusal_eq]
  split_ifs with hr hj hm
  · exact iff_of_false nofun fun ⟨h, _, _⟩ => hr h
  · exact iff_of_false nofun fun ⟨_, h, _⟩ => hj h
  · exact iff_of_false nofun fun ⟨_, _, h⟩ => hm.not_gt h
  · exact iff_of_true rfl ⟨not_not.1 hr, not_not.1 hj, not_le.1 hm⟩

/-! ### Writes of the window address (R12) -/

/-- The part with the window at address `a` and its latch discarded. -/
def windowAt (a : BitVec 22) (s : State) : State :=
  unlatched { s with hp := { s.hp with win := { s.hp.win with addr := a } } }

/-- The three conditions look at nothing of the window but its address. -/
theorem prefetchRefusal_windowAt (a : BitVec 22) (s : State) : prefetchRefusal (windowAt a s) =
    if s.mc.state ≠ .ready then some 0x20
    else if jobOf s ≠ none then some 0x40
    else if s.sc.cfg.memorySize ≤ a.toNat then some 0x01
    else none := prefetchRefusal_eq (windowAt a s)

theorem startPrefetch_windowAt (a : BitVec 22) (s : State) : startPrefetch (windowAt a s) =
    { windowAt a s with hp := { s.hp with win := { s.hp.win with addr := a, latch := .pending } } } := rfl

theorem writeWinAddrLo_eq (w : Word) (s : State) : writeWinAddrLo w s =
    windowAt (BitVec.ofNat 22 (s.hp.win.addr.toNat / 65536 * 65536 + w.toNat)) s :=
  congrArg (windowAt · s) (high_append_word s.hp.win.addr w)

/-- The part after a WIN_ADDR_HI write, before the prefetch it tries. -/
def hiWritten (w : Word) (s : State) : State :=
  windowAt (BitVec.ofNat 22 (w.toNat % 64 * 65536 + s.hp.win.addr.toNat % 65536)) s

theorem prefetchRefusal_hiWritten (w : Word) (s : State) : prefetchRefusal (hiWritten w s) =
    if s.mc.state ≠ .ready then some 0x20
    else if jobOf s ≠ none then some 0x40
    else if s.sc.cfg.memorySize ≤ w.toNat % 64 * 65536 + s.hp.win.addr.toNat % 65536 then some 0x01
    else none :=
  (prefetchRefusal_windowAt _ s).trans (by rw [BitVec.toNat_ofNat, Nat.mod_eq_of_lt (by omega)])

theorem writeWinAddrHi_eq (w : Word) (s : State) : writeWinAddrHi w s =
    (prefetchRefusal (hiWritten w s)).elim (startPrefetch (hiWritten w s)) (setWinError · (hiWritten w s)) := by
  have hs : discardLatch (s.updWin fun x => { x with addr := w.extractLsb' 0 6 ++ x.addr.extractLsb' 0 16 }) =
      hiWritten w s := congrArg (windowAt · s) (low_append_low s.hp.win.addr w)
  simp only [writeWinAddrHi, hs]
  cases prefetchRefusal (hiWritten w s) <;> rfl

/-- Settles O28: the high write's four cases are the branches of `prefetchRefusal_hiWritten`. -/
theorem winAddrWrites : Obligations.WinAddrWrites := by
  intro w s h
  have hlo := exec_winAddrLoWrite h w
  have hhi := exec_winAddrHiWrite h w
  rw [writeWinAddrLo_eq] at hlo
  rw [writeWinAddrHi_eq, prefetchRefusal_hiWritten] at hhi
  refine ⟨hlo, fun hr => ?_, fun hr hj => ?_, fun hr hj hm => ?_, fun hr hj hm => ?_⟩
  · rw [hhi, if_pos hr]
    rfl
  · rw [hhi, if_neg (not_not.2 hr), if_pos hj]
    rfl
  · rw [hhi, if_neg (not_not.2 hr), if_neg (not_not.2 hj), if_pos hm]
    rfl
  · rw [hhi, if_neg (not_not.2 hr), if_neg (not_not.2 hj), if_neg hm.not_ge]
    exact congrArg (Host.Outcome.next ∘ settle) (startPrefetch_windowAt _ s)

/-! ### WIN_DATA reads (R14) -/

/-- The part after a read took the latched word: WIN_ADDR one further, the latch empty. -/
def wordTaken (s : State) : State :=
  s.updWin fun x => { x with addr := BitVec.ofNat 22 ((x.addr.toNat + 1) % 4194304), latch := .empty }

/-- A follow-on prefetch may start at the next address. -/
theorem prefetchRefusal_wordTaken (s : State) : prefetchRefusal (wordTaken s) = none ↔
    s.mc.state = .ready ∧ jobOf s = none ∧ (s.hp.win.addr.toNat + 1) % 4194304 < s.sc.cfg.memorySize := by
  have haddr : (wordTaken s).hp.win.addr.toNat = (s.hp.win.addr.toNat + 1) % 4194304 :=
    (BitVec.toNat_ofNat _ _).trans (Nat.mod_mod _ _)
  rw [prefetchRefusal_eq_none_iff, haddr]
  rfl

theorem addrAdvanced_eq_wordTaken (s : State) :
    (s.updWin fun x => { x with addr := x.addr + 1, latch := .empty }) = wordTaken s :=
  congrArg (fun a => s.updWin fun x => { x with addr := a, latch := .empty }) (winAddr_succ s.hp.win.addr)

/-- The word driven: the latched one, or FFFFH. -/
theorem winDataValue_of_latch (s : State) : (∀ w, s.hp.win.latch = .ready w → winDataValue s = w) ∧
    (s.hp.win.latch = .empty ∨ s.hp.win.latch = .pending → winDataValue s = 0xFFFF) := by
  unfold winDataValue
  cases s.hp.win.latch with
  | empty => exact ⟨nofun, fun _ => rfl⟩
  | pending => exact ⟨nofun, fun _ => rfl⟩
  | ready w => exact ⟨fun _ h => Latch.ready.inj h, nofun⟩

/-- The effect: a READY latch lets the next prefetch start if it may; otherwise UNDERFLOW, address and latch as they
were. -/
theorem readWinData_of_latch (s : State) :
    (∀ w, s.hp.win.latch = .ready w → readWinData s =
      if prefetchRefusal (wordTaken s) = none then startPrefetch (wordTaken s) else wordTaken s) ∧
    (s.hp.win.latch = .empty ∨ s.hp.win.latch = .pending → readWinData s = setWinError 0x08 s) := by
  simp only [readWinData, addrAdvanced_eq_wordTaken]
  cases s.hp.win.latch with
  | empty => exact ⟨nofun, fun _ => rfl⟩
  | pending => exact ⟨nofun, fun _ => rfl⟩
  | ready w =>
    refine ⟨fun _ _ => ?_, nofun⟩
    cases prefetchRefusal (wordTaken s) <;> rfl

/-- Settles O29: a READY latch by whether the follow-on prefetch may start, then the EMPTY and PENDING latch. -/
theorem winDataRead : Obligations.WinDataRead := by
  intro s h
  have hread := exec_winDataRead h
  obtain ⟨hword, hnone⟩ := winDataValue_of_latch s
  obtain ⟨htake, hunder⟩ := readWinData_of_latch s
  refine ⟨fun w hl hr hj hm => ?_, fun w hl hno => ?_, fun hl => ?_⟩
  · have hstart := (prefetchRefusal_wordTaken s).2 ⟨hr, hj, hm⟩
    rw [hread, hword w hl, htake w hl, if_pos hstart]
    rfl
  · have hstop := mt (prefetchRefusal_wordTaken s).1 hno
    rw [hread, hword w hl, htake w hl, if_neg hstop]
    rfl
  · rw [hread, hnone hl, hunder hl]
    rfl

end Sys2Proof.Proofs

/-! PROOFS. The ARM check finds the first failure in the order of R35 to R37; what ARM and DISARM do (R38, R39). -/

namespace Sys2Proof.Proofs

open Sys2Proof.Machine Sys2Proof.Safety Sys2Proof.Laws

/-! ### Searches

Each part of the ARM check looks for the first `P` in the order of `place`. Two of them in a row are again such a search,
so the whole check is put together from its parts. -/

/-- What a search for the first `P` answers: an `x` that every other `P` comes after, or none where there is no `P`. -/
def FindsFirst {α : Type} (place : α → Nat) (P : α → Prop) : Option α → Prop
  | none => ∀ x, ¬ P x
  | some x => P x ∧ ∀ y, P y → y = x ∨ place x < place y

namespace FindsFirst

variable {α : Type} {place : α → Nat} {P Q : α → Prop} {o o' : Option α}

theorem eq_some_iff (h : FindsFirst place P o) (x : α) : o = some x ↔ P x ∧ ∀ y, P y → place x ≤ place y := by
  cases o with
  | none => exact iff_of_false nofun fun ⟨hx, _⟩ => h x hx
  | some z =>
    obtain ⟨hz, first⟩ := h
    refine ⟨?_, fun ⟨hx, least⟩ => ?_⟩
    · rintro ⟨⟩
      exact ⟨hz, fun y hy => (first y hy).elim (fun e => e ▸ le_rfl) le_of_lt⟩
    · rcases first x hx with rfl | later
      · rfl
      · exact absurd (least z hz) later.not_ge

protected theorem congr (h : FindsFirst place P o) (e : ∀ x, P x ↔ Q x) : FindsFirst place Q o :=
  (funext fun x => propext (e x) : P = Q) ▸ h

/-- A search that goes on from place `n` only where the one before `n` found nothing. -/
protected theorem or (n : Nat) (hP : FindsFirst place P o) (before : ∀ x, P x → place x < n)
    (hQ : (∀ x, ¬ P x) → FindsFirst place Q o') (after : ∀ x, Q x → n ≤ place x) :
    FindsFirst place (fun x => P x ∨ Q x) (o.or o') := by
  cases o with
  | none => exact (hQ hP).congr fun x => (or_iff_right (hP x)).symm
  | some x =>
    obtain ⟨hx, first⟩ := hP
    exact ⟨.inl hx, fun y hy => hy.elim (first y) fun hy => .inr ((before x hx).trans_le (after y hy))⟩

end FindsFirst

/-- Members of a list in strictly rising order are known by their place. -/
theorem eq_of_place_eq {α : Type} {place : α → Nat} {l : List α} (sorted : (l.map place).Pairwise (· < ·)) {x y : α}
    (hx : x ∈ l) (hy : y ∈ l) (h : place x = place y) : x = y :=
  List.inj_on_of_nodup_map (sorted.imp Nat.ne_of_lt) hx hy h

/-- A list of checks in strictly rising order of place, whose failing items are the `P`. -/
theorem firstOf_findsFirst {α : Type} {place : α → Nat} {P : α → Prop} {l : List (Bool × α)}
    (sorted : (l.map fun e => place e.2).Pairwise (· < ·)) (mem : ∀ x, (true, x) ∈ l ↔ P x) :
    FindsFirst place P (firstOf l) := by
  cases h : firstOf l with
  | none => exact fun x hx => (firstOf_eq_none l).1 h x ((mem x).2 hx)
  | some x =>
    have hx := firstOf_mem h
    refine ⟨(mem x).1 hx, fun y hy => ?_⟩
    have hy := (mem y).2 hy
    have hle := firstOf_le place h ((List.pairwise_map.1 sorted).imp le_of_lt) hy
    refine hle.eq_or_lt.imp_left fun e => ?_
    exact congrArg Prod.snd (eq_of_place_eq sorted hy hx e.symm)

/-! ### Lists of checks -/

theorem mem_checks_cons {α : Type} (b : Bool) (x y : α) (l : List (Bool × α)) :
    (true, y) ∈ (b, x) :: l ↔ (b = true ∧ y = x) ∨ (true, y) ∈ l := by
  simp [eq_comm (a := true)]

theorem portIndex_eq : portIndex .p0 = 0 ∧ portIndex .p1 = 1 ∧ portIndex .p2 = 2 ∧ portIndex .p3 = 3 :=
  ⟨rfl, rfl, rfl, rfl⟩

theorem portIndex_lt (p : PortId) : portIndex p < 4 := by cases p <;> simp [portIndex_eq]

theorem mem_allPorts (p : PortId) : p ∈ allPorts := List.elem_iff.1 (by cases p <;> rfl)

theorem flatMap_allPorts {α : Type} (g : PortId → List α) :
    allPorts.flatMap g = g .p0 ++ (g .p1 ++ (g .p2 ++ (g .p3 ++ []))) := rfl

theorem mem_flatMap_allPorts {α : Type} (g : PortId → List α) (x : α) :
    x ∈ allPorts.flatMap g ↔ ∃ p, x ∈ g p := by
  simp [List.mem_flatMap, mem_allPorts]

theorem mem_portPairs (p q : PortId) : (p, q) ∈ portPairs ↔ portIndex p < portIndex q := by
  cases p <;> cases q <;> simp [portPairs, portIndex_eq]

/-! ### What fails, part by part

`Fails` gives a port's items 8 and 9 and its checks 3 to 5 together; the search has every port's items before any port's
checks. -/

/-- Items 8 and 9 of a PRESENT port (R36). -/
def PortLevelFails (k : PortCfg) (n : Nat) (f : ArmFailure) : Prop :=
  (15 < bits k.levels 0 5 ∧ f = { code := 2, item := 8, first := n }) ∨
  (15 < bits k.levels 8 5 ∧ f = { code := 2, item := 9, first := n })

/-- Checks 3 to 5 of a PRESENT port (R35). -/
def PortGroupFails (units : Nat) (k : PortCfg) (n : Nat) (f : ArmFailure) : Prop :=
  ((bits k.pcfg 2 2 = 3 ∨ (flag k.pcfg 1 = true ∧ bits k.pcfg 2 2 = 2)) ∧ f = { code := 3, item := 1, first := n }) ∨
  (4 ≤ bits k.pcfg 5 3 ∧ f = { code := 3, item := 2, first := n }) ∨
  ((bits k.regionSize 0 13 = 0 ∨ 4097 ≤ bits k.regionSize 0 13) ∧ f = { code := 3, item := 3, first := n }) ∨
  (¬ (1 ≤ bits k.wm 0 6 ∧ bits k.wm 0 6 < bits k.wm 8 7 ∧ bits k.wm 8 7 ≤ 64) ∧ f = { code := 4, first := n }) ∨
  (units < bits k.regionBase 0 12 + bits k.regionSize 0 13 ∧ f = { code := 5, first := n })

theorem portFails_iff (units : Nat) (k : PortCfg) (n : Nat) (f : ArmFailure) :
    PortFails units k n f ↔ PortLevelFails k n f ∨ PortGroupFails units k n f := or_assoc.symm

/-- Check 2 with all its items (R36). -/
def RangeFails (c : Cfg) (f : ArmFailure) : Prop :=
  GlobalFails c f ∨ ∃ p, flag (c.ports.get p).pcfg 0 = true ∧ PortLevelFails (c.ports.get p) (portIndex p) f

/-- Checks 3 to 5 of any PRESENT port. -/
def SomePortFails (c : Cfg) (f : ArmFailure) : Prop :=
  ∃ p, flag (c.ports.get p).pcfg 0 = true ∧ PortGroupFails (memoryUnits c) (c.ports.get p) (portIndex p) f

theorem fails_iff (s : State) (f : ArmFailure) : Fails s f ↔
    (s.mc.state ≠ .ready ∧ f = { code := 1 }) ∨ RangeFails s.sc.cfg f ∨ SomePortFails s.sc.cfg f ∨
      OverlapFails s.sc.cfg f ∨ LevelFails s.sc.cfg f := by
  simp only [Fails, RangeFails, SomePortFails, portFails_iff, and_or_left, exists_or, or_assoc]

/-! ### The place of each report -/

theorem checkPlace_memory : checkPlace { code := 1 } = 0 := rfl

theorem checkPlace_range (item n : Nat) : checkPlace { code := 2, item := item, first := n } =
    0x1000 + (if item ≤ 7 then 0 else 1 + n) * 16 + item := rfl

theorem checkPlace_portRange (item n : Nat) :
    checkPlace { code := 3, item := item, first := n } = 0x2000 + n * 256 + 3 * 16 + item := rfl

theorem checkPlace_watermark (n : Nat) : checkPlace { code := 4, first := n } = 0x2000 + n * 256 + 4 * 16 := rfl

theorem checkPlace_region (n : Nat) : checkPlace { code := 5, first := n } = 0x2000 + n * 256 + 5 * 16 := rfl

theorem checkPlace_overlap (p q : Nat) : checkPlace { code := 6, first := p, second := q } = 0x3000 + p * 16 + q := rfl

theorem checkPlace_level (u v l : Nat) : checkPlace { code := 7, users := (u, v, l) } = 0x4000 + u * 16 + v := rfl

/-! ### Where each part's failures stand -/

theorem checkPlace_of_range {c : Cfg} {f : ArmFailure} (h : RangeFails c f) :
    0x1000 ≤ checkPlace f ∧ checkPlace f < 0x2000 := by
  rcases h with h | ⟨p, -, h⟩
  · rcases h with ⟨-, rfl⟩ | ⟨-, rfl⟩ | ⟨-, rfl⟩ | ⟨-, rfl⟩ | ⟨-, rfl⟩ | ⟨-, rfl⟩ | ⟨-, rfl⟩ <;>
      simp [checkPlace_range]
  · have := portIndex_lt p
    rcases h with ⟨-, rfl⟩ | ⟨-, rfl⟩ <;> simp [checkPlace_range] <;> omega

theorem checkPlace_of_somePort {c : Cfg} {f : ArmFailure} (h : SomePortFails c f) :
    0x2000 ≤ checkPlace f ∧ checkPlace f < 0x3000 := by
  obtain ⟨p, -, h⟩ := h
  have := portIndex_lt p
  rcases h with ⟨-, rfl⟩ | ⟨-, rfl⟩ | ⟨-, rfl⟩ | ⟨-, rfl⟩ | ⟨-, rfl⟩
  · rw [checkPlace_portRange]; omega
  · rw [checkPlace_portRange]; omega
  · rw [checkPlace_portRange]; omega
  · rw [checkPlace_watermark]; omega
  · rw [checkPlace_region]; omega

theorem checkPlace_of_overlap {c : Cfg} {f : ArmFailure} (h : OverlapFails c f) :
    0x3000 ≤ checkPlace f ∧ checkPlace f < 0x4000 := by
  obtain ⟨p, q, -, -, -, -, rfl⟩ := h
  have := portIndex_lt p
  have := portIndex_lt q
  rw [checkPlace_overlap]
  omega

theorem checkPlace_of_level {c : Cfg} {f : ArmFailure} (h : LevelFails c f) : 0x4000 ≤ checkPlace f := by
  obtain ⟨u, v, l, -, -, -, rfl⟩ := h
  rw [checkPlace_level]
  omega

/-! From one part on, in the order of the parts. -/

theorem checkPlace_from_overlap {c : Cfg} {f : ArmFailure} (h : OverlapFails c f ∨ LevelFails c f) :
    0x3000 ≤ checkPlace f :=
  h.elim (fun h => (checkPlace_of_overlap h).1) fun h => le_trans (by norm_num) (checkPlace_of_level h)

theorem checkPlace_from_somePort {c : Cfg} {f : ArmFailure} (h : SomePortFails c f ∨ OverlapFails c f ∨ LevelFails c f) :
    0x2000 ≤ checkPlace f :=
  h.elim (fun h => (checkPlace_of_somePort h).1) fun h => le_trans (by norm_num) (checkPlace_from_overlap h)

theorem checkPlace_from_range {c : Cfg} {f : ArmFailure}
    (h : RangeFails c f ∨ SomePortFails c f ∨ OverlapFails c f ∨ LevelFails c f) : 0x1000 ≤ checkPlace f :=
  h.elim (fun h => (checkPlace_of_range h).1) fun h => le_trans (by norm_num) (checkPlace_from_somePort h)

/-! ### Check 2 (R36) -/

theorem globalRange_findsFirst (c : Cfg) : FindsFirst checkPlace (RangeFails c) (globalRange c) := by
  refine firstOf_findsFirst (List.isChain_iff_pairwise.1 ?_) fun f => ?_
  · simp [flatMap_allPorts, portIndex_eq, checkPlace_range]
  refine List.mem_append.trans (or_congr ?_ ?_)
  · simp only [mem_checks_cons, List.not_mem_nil, or_false, Bool.or_eq_true, decide_eq_true_eq, beq_iff_eq]
    simp only [GlobalFails, not_and_or, not_le]
    rfl
  · refine (mem_flatMap_allPorts _ _).trans (exists_congr fun p => ?_)
    simp only [mem_checks_cons, List.not_mem_nil, or_false, Bool.and_eq_true, decide_eq_true_eq, and_assoc]
    exact and_or_left.symm

/-! ### Checks 3 to 5 (R35) -/

theorem flowIllegal_iff (k : PortCfg) :
    k.flowIllegal = true ↔ bits k.pcfg 2 2 = 3 ∨ (flag k.pcfg 1 = true ∧ bits k.pcfg 2 2 = 2) := by
  unfold PortCfg.flowIllegal PortCfg.dir PortCfg.flowCode
  cases flag k.pcfg 1 <;> simp [or_comm]

theorem memorySize_eq (c : Cfg) : c.memorySize = memoryUnits c * 1024 := by
  unfold Cfg.memorySize memoryUnits Cfg.sizeSelect
  split <;> simp [*]

theorem portGroup_findsFirst (c : Cfg) : FindsFirst checkPlace (SomePortFails c) (portGroup c) := by
  refine firstOf_findsFirst (List.isChain_iff_pairwise.1 ?_) fun f => ?_
  · simp [flatMap_allPorts, portIndex_eq, checkPlace_portRange, checkPlace_watermark, checkPlace_region]
  refine (mem_flatMap_allPorts _ _).trans (exists_congr fun p => ?_)
  have units (n : Nat) : c.memorySize < n * 1024 ↔ memoryUnits c < n := by rw [memorySize_eq]; omega
  simp only [mem_checks_cons, flowIllegal_iff, units, List.not_mem_nil, or_false, Bool.and_eq_true, Bool.or_eq_true,
    Bool.not_eq_true', Bool.and_eq_false_iff, decide_eq_true_eq, decide_eq_false_iff_not, beq_iff_eq, and_assoc]
  simp only [PortGroupFails, and_or_left, not_and_or, or_assoc]
  rfl

/-! ### Check 6 (R35, R37) -/

theorem regionsMeet_iff {a b : PortCfg} (ha : bits a.regionSize 0 13 ≠ 0) (hb : bits b.regionSize 0 13 ≠ 0) :
    regionsMeet a b = true ↔ ∃ x, InRegion a x ∧ InRegion b x := by
  simp only [regionsMeet, Bool.and_eq_true, decide_eq_true_eq]
  simp only [PortCfg.regionFirst, PortCfg.regionEnd, PortCfg.baseUnits, PortCfg.sizeUnits, InRegion]
  constructor
  · intro h
    exact ⟨max (bits a.regionBase 0 12 * 1024) (bits b.regionBase 0 12 * 1024), by omega⟩
  · rintro ⟨x, hx⟩
    omega

/-- Check 3 has found every region of a PRESENT port to hold a word. -/
theorem regionSize_ne_zero {c : Cfg} (h : ∀ f, ¬ SomePortFails c f) {p : PortId}
    (hp : flag (c.ports.get p).pcfg 0 = true) : bits (c.ports.get p).regionSize 0 13 ≠ 0 :=
  fun h0 => h _ ⟨p, hp, .inr (.inr (.inl ⟨.inl h0, rfl⟩))⟩

theorem regionOverlap_findsFirst {c : Cfg} (h : ∀ f, ¬ SomePortFails c f) :
    FindsFirst checkPlace (OverlapFails c) (regionOverlap c) := by
  refine firstOf_findsFirst (List.isChain_iff_pairwise.1 ?_) fun f => ?_
  · simp [portPairs, portIndex_eq, checkPlace_overlap]
  simp only [List.mem_map, Prod.exists, mem_portPairs, Prod.mk.injEq, Bool.and_eq_true, and_assoc]
  refine exists₂_congr fun p q => and_congr_right fun _ => and_congr_right fun hp => and_congr_right fun hq => ?_
  exact and_congr (regionsMeet_iff (regionSize_ne_zero h hp) (regionSize_ne_zero h hq)) eq_comm

/-! ### Check 7 (R35, R37) -/

theorem mem_levelUsers (c : Cfg) (u l : Nat) : (u, l) ∈ levelUsers c ↔ LevelUse c u l := by
  simp only [levelUsers, List.mem_append, mem_flatMap_allPorts, List.mem_ite_nil_right, List.mem_cons, Prod.mk.injEq,
    List.not_mem_nil, or_false, or_assoc]
  rfl

/-- The users in use are some of the eleven, in the order of their numbers. -/
theorem levelUsers_sublist_range (c : Cfg) : ((levelUsers c).map Prod.fst).Sublist (List.range 11) := by
  have ports (p : PortId) (k : PortCfg) : ((if k.present then
      [(3 + 2 * portIndex p, k.normalLevel), (4 + 2 * portIndex p, k.urgentLevel)] else []).map Prod.fst).Sublist
      [3 + 2 * portIndex p, 4 + 2 * portIndex p] := by
    split
    · exact List.Sublist.refl _
    · exact List.nil_sublist _
  show List.Sublist (List.map Prod.fst ([(0, _), (1, _), (2, _)] ++ List.flatMap _ allPorts)) _
  rw [List.map_append, List.map_flatMap]
  exact (List.Sublist.refl [0, 1, 2]).append (List.Sublist.flatMap_right allPorts fun p _ => ports p _)

theorem levelUsers_sorted (c : Cfg) : ((levelUsers c).map Prod.fst).Pairwise (· < ·) :=
  List.pairwise_lt_range.sublist (levelUsers_sublist_range c)

theorem levelUse_lt {c : Cfg} {u l : Nat} (h : LevelUse c u l) : u < 11 :=
  List.mem_range.1 ((levelUsers_sublist_range c).subset (List.mem_map_of_mem ((mem_levelUsers c u l).2 h)))

theorem levelUse_unique {c : Cfg} {u k l : Nat} (hk : LevelUse c u k) (hl : LevelUse c u l) : k = l :=
  congrArg Prod.snd
    (eq_of_place_eq (levelUsers_sorted c) ((mem_levelUsers c u k).2 hk) ((mem_levelUsers c u l).2 hl) rfl)

theorem levelConflict_findsFirst (c : Cfg) :
    FindsFirst checkPlace (LevelFails c) (levelConflict (levelUsers c)) := by
  have sorted := List.pairwise_map.1 (levelUsers_sorted c)
  cases h : levelConflict (levelUsers c) with
  | none =>
    have apart := (levelConflict_eq_none sorted).1 h
    rintro _ ⟨u, v, l, huv, hu, hv, rfl⟩
    exact apart u v l huv ((mem_levelUsers c u l).2 hu) ((mem_levelUsers c v l).2 hv)
  | some f =>
    obtain ⟨u, v, k, rfl, huv, hu, hv, first⟩ := levelConflict_eq_some sorted h
    rw [mem_levelUsers] at hu hv
    refine ⟨⟨u, v, k, huv, hu, hv, rfl⟩, ?_⟩
    rintro _ ⟨a, b, l, hab, ha, hb, rfl⟩
    rw [checkPlace_level, checkPlace_level]
    have hv11 := levelUse_lt hv
    rcases first a b l hab ((mem_levelUsers c a l).2 ha) ((mem_levelUsers c b l).2 hb) with hlt | ⟨rfl, hle⟩
    · right
      omega
    · obtain rfl := levelUse_unique hu ha
      rcases hle.eq_or_lt with rfl | hlt
      · exact .inl rfl
      · right
        omega

/-! ### The whole check -/

theorem armCheck_eq_or (s : State) : armCheck s =
    (if s.mc.state ≠ .ready then some { code := 1 } else none).or ((globalRange s.sc.cfg).or
      ((portGroup s.sc.cfg).or ((regionOverlap s.sc.cfg).or (levelConflict (levelUsers s.sc.cfg))))) := by
  simp only [armCheck]
  split
  · rfl
  · cases globalRange s.sc.cfg with
    | some _ => rfl
    | none => cases portGroup s.sc.cfg with
      | some _ => rfl
      | none => cases regionOverlap s.sc.cfg <;> rfl

theorem memoryState_findsFirst (s : State) : FindsFirst checkPlace
    (fun f => s.mc.state ≠ .ready ∧ f = { code := 1 }) (if s.mc.state ≠ .ready then some { code := 1 } else none) := by
  split
  next h => exact ⟨⟨h, rfl⟩, fun _ ⟨_, hf⟩ => .inl hf⟩
  next h => exact fun _ ⟨hs, _⟩ => h hs

theorem armCheck_findsFirst (s : State) : FindsFirst checkPlace (Fails s) (armCheck s) := by
  rw [armCheck_eq_or]
  refine FindsFirst.congr ?_ fun f => (fails_iff s f).symm
  refine (memoryState_findsFirst s).or 0x1000 ?_ (fun _ => ?_) fun _ => checkPlace_from_range
  · rintro _ ⟨-, rfl⟩
    simp [checkPlace_memory]
  refine (globalRange_findsFirst s.sc.cfg).or 0x2000 (fun _ h => (checkPlace_of_range h).2) (fun _ => ?_)
    fun _ => checkPlace_from_somePort
  refine (portGroup_findsFirst s.sc.cfg).or 0x3000 (fun _ h => (checkPlace_of_somePort h).2) (fun ports => ?_)
    fun _ => checkPlace_from_overlap
  exact (regionOverlap_findsFirst ports).or 0x4000 (fun _ h => (checkPlace_of_overlap h).2)
    (fun _ => levelConflict_findsFirst s.sc.cfg) fun _ => checkPlace_of_level

/-! ### ARM and DISARM -/

theorem report_eq (f : ArmFailure) : f.report =
    { w0 := BitVec.ofNat 16 f.code ||| BitVec.ofNat 16 (f.item * 16) ||| BitVec.ofNat 16 (f.first * 256) |||
        BitVec.ofNat 16 (f.second * 1024)
      w1 := BitVec.ofNat 16 f.users.1 ||| BitVec.ofNat 16 (f.users.2.1 * 16) |||
        BitVec.ofNat 16 (f.users.2.2 * 256) } := by
  simp [ArmFailure.report, pack, BitVec.or_assoc]

theorem allClosed_iff (s : State) : allClosed s = true ↔ AllClosed s := by
  simp [allClosed, mem_allPorts, AllClosed]

theorem exec_arm {s : State} {high : Byte} (h : Admitted s 0x10 (portField high)) :
    exec (.arm high) s = .next (settle (cmdArm (started 0x10 (portField high) s))) :=
  command_effect (c := .arm) rfl h

theorem exec_disarm {s : State} {high : Byte} (h : Admitted s 0x11 (portField high)) :
    exec (.disarm high) s = .next (settle (cmdDisarm (started 0x11 (portField high) s))) :=
  command_effect (c := .disarm) rfl h

/-- ARM by the answer of its check. -/
theorem cmdArm_eq (s : State) : cmdArm s = (armCheck s).elim
    (ended .ok {}
      { s with sc := { s.sc with device := .armed },
               ma := { s.ma with host := .opened, ports := ⟨.opened, .opened, .opened, .opened⟩ },
               ports := s.ports.map fun _ x => { x with xen := false } })
    fun f => ended .checkFailed f.report s := by
  unfold cmdArm
  cases armCheck s <;> rfl

theorem disarmed_of_allClosed {s : State} (h : AllClosed s) : cmdDisarm s = ended .ok {}
    { s with sc := { s.sc with device := .setup },
             ma := { s.ma with host := .opened, ports := ⟨.opened, .opened, .opened, .opened⟩ } } :=
  if_pos ((allClosed_iff s).2 h)

theorem disarmRefused_of_not_allClosed {s : State} (h : ¬ AllClosed s) : cmdDisarm s = ended .badState {} s :=
  if_neg (mt (allClosed_iff s).1 h)

/-- Settles O12: the search of the ARM check by its parts, then the effect of each command. -/
theorem armAndDisarm : Obligations.ArmAndDisarm := by
  intro high s arm disarm opened
  have first (f : ArmFailure) : armCheck s = some f ↔ FirstFailure s f := (armCheck_findsFirst s).eq_some_iff f
  refine ⟨first, fun h pass => ⟨s.ports.map fun _ x => { x with xen := false }, ?_, Quad.get_map _ _⟩,
    fun h f hf => ?_, fun h closed => ?_, fun h notClosed => ?_⟩
  · have passes : armCheck arm = none := pass
    rw [exec_arm h, cmdArm_eq, passes]
    rfl
  · have fails : armCheck arm = some f := (first f).2 hf
    rw [exec_arm h, cmdArm_eq, fails, Option.elim_some, report_eq]
  · have disarmed := disarmed_of_allClosed (s := disarm) closed
    rw [exec_disarm h, disarmed]
    rfl
  · have refused := disarmRefused_of_not_allClosed (s := disarm) notClosed
    rw [exec_disarm h, refused]

end Sys2Proof.Proofs

/-! PROOFS. The requests of the ports (R91, R92, R133) and what the part drives on the port links (R79, R85). -/

namespace Sys2Proof.Proofs

open Sys2Proof.Machine Sys2Proof.Safety Sys2Proof.Laws

/-! ### The conditions of a request (R91, R92) -/

/-- R91's condition on a capture port. -/
def CaptureDue (k : PortCfg) (x : Port) : Prop :=
  (x.state = .active ∨ x.state = .closing) ∧ 1 ≤ x.fifo.length ∧
    ∃ h t, x.queue = h :: t ∧
      (k.normalWm ≤ x.fifo.length ∨ h.desc.length - h.progress ≤ x.fifo.length ∨
        (h.desc.last = true ∧ ∃ e ∈ x.fifo, e.mark = true) ∨ x.idleDeclared = true ∨ x.state = .closing)

/-- R92's condition on a replay port; a stop block due for release does not block it (R109). -/
def ReplayDue (k : PortCfg) (x : Port) : Prop :=
  x.state = .active ∧ (x.stopBlock = .clear ∨ (x.stopBlock = .left ∧ x.xen = true)) ∧
    ∃ cur e, x.fetch = some cur ∧ x.queue[cur.pos]? = some e ∧
      min k.normalWm (e.desc.length - cur.off) ≤ 64 - x.fifo.length - x.reservation

/-- The urgency of a request by the urgent watermark, for a fill or free space of `n`. -/
def requestAt (k : PortCfg) (n : Nat) : Option Urgency :=
  if k.urgentWm ≤ n then some .urgent else some .normal

theorem some_urgency_eq_requestAt (k : PortCfg) (n : Nat) :
    some (if k.urgentWm ≤ n then Urgency.urgent else .normal) = requestAt k n := apply_ite some _ _ _

theorem captureRequest_eq (k : PortCfg) (x : Port) [Decidable (CaptureDue k x)] :
    captureRequest k x = if CaptureDue k x then requestAt k x.fifo.length else none := by
  cases hq : x.queue with
  | nil =>
    have notDue : ¬ CaptureDue k x := by simp [CaptureDue, hq]
    simp [captureRequest, hq, notDue]
  | cons h t =>
    simp only [captureRequest, hq]
    refine if_congr ?_ (some_urgency_eq_requestAt _ _) rfl
    simp [CaptureDue, hq, QEntry.remaining, and_assoc, or_assoc]

theorem fetched_of_fetch {x : Port} {cur : Cursor} (h : x.fetch = some cur) :
    x.fetched = x.queue[cur.pos]?.map (cur, ·) := by
  simp only [Port.fetched, h]
  cases x.queue[cur.pos]? <;> rfl

theorem fetched_of_no_fetch {x : Port} (h : x.fetch = none) : x.fetched = none := by simp [Port.fetched, h]

/-! ### Requests once the due stop blocks are released -/

@[simp] theorem releaseStop_state (x : Port) : x.releaseStop.state = x.state := by
  unfold Port.releaseStop
  split <;> rfl

@[simp] theorem releaseStop_fetched (x : Port) : x.releaseStop.fetched = x.fetched := by
  unfold Port.releaseStop
  split <;> rfl

@[simp] theorem releaseStop_freeSpace (x : Port) :
    x.releaseStop.freeSpace = 64 - x.fifo.length - x.reservation := by
  unfold Port.releaseStop
  split <;> rfl

theorem releaseStop_clear_iff (x : Port) :
    x.releaseStop.stopBlock = .clear ↔ x.stopBlock = .clear ∨ (x.stopBlock = .left ∧ x.xen = true) := by
  unfold Port.releaseStop
  split <;> simp [*]

theorem captureRequest_releaseStop (k : PortCfg) (x : Port) [Decidable (CaptureDue k x)] :
    captureRequest k x.releaseStop = if CaptureDue k x then requestAt k x.fifo.length else none := by
  rw [← captureRequest_eq]
  unfold Port.releaseStop
  split <;> rfl

theorem replayRequest_of_no_entry {k : PortCfg} {x : Port} (h : x.fetched = none) :
    replayRequest k x.releaseStop = none := by simp [replayRequest, h]

theorem replayRequest_releaseStop (k : PortCfg) (x : Port) [Decidable (ReplayDue k x)] :
    replayRequest k x.releaseStop =
      if ReplayDue k x then requestAt k (64 - x.fifo.length - x.reservation) else none := by
  cases hf : x.fetch with
  | none =>
    have notDue : ¬ ReplayDue k x := by simp [ReplayDue, hf]
    rw [replayRequest_of_no_entry (fetched_of_no_fetch hf), if_neg notDue]
  | some cur =>
    have hx := fetched_of_fetch hf
    cases hq : x.queue[cur.pos]? with
    | none =>
      have notDue : ¬ ReplayDue k x := by simp [ReplayDue, hf, hq]
      rw [replayRequest_of_no_entry (by rw [hx, hq]; rfl), if_neg notDue]
    | some e =>
      simp only [replayRequest, releaseStop_fetched, hx, hq, Option.map_some, releaseStop_state, releaseStop_freeSpace]
      refine if_congr ?_ (some_urgency_eq_requestAt _ _) rfl
      simp [ReplayDue, hf, hq, releaseStop_clear_iff, and_assoc]

theorem abortWaits_iff (s : State) (p : PortId) :
    abortWaits s p = true ↔ s.hp.seq.running = some (.portAbort p) := by
  simp [abortWaits]

theorem settle_request (s : State) (p : PortId) : ((settle s).port p).request =
    requestOf (s.pcfg p) (abortWaits s p) (s.port p).releaseStop := by
  cases p <;> rfl

theorem settle_request_of_waits {s : State} {p : PortId} (h : s.hp.seq.running = some (.portAbort p)) :
    ((settle s).port p).request = none := by
  rw [settle_request, (abortWaits_iff s p).2 h]
  rfl

theorem settle_request_of_not_waits {s : State} {p : PortId} (h : s.hp.seq.running ≠ some (.portAbort p)) :
    ((settle s).port p).request = requestOf (s.pcfg p) false (s.port p).releaseStop := by
  rw [settle_request, Bool.eq_false_iff.2 (mt (abortWaits_iff s p).1 h)]

theorem requestOf_capture {k : PortCfg} (h : k.dir = .capture) (x : Port) :
    requestOf k false x = captureRequest k x := by simp [requestOf, h]

theorem requestOf_replay {k : PortCfg} (h : k.dir = .replay) (x : Port) :
    requestOf k false x = replayRequest k x := by simp [requestOf, h]

/-- Settles O5: a waiting abort silences the port (R133); without one the request is R91's or R92's condition. -/
theorem portRequestRules : Obligations.PortRequestRules := by
  intro s p x k fill free waits capture replay request
  classical
  by_cases hw : waits
  · have silent : request = none := settle_request_of_waits hw
    exact ⟨fun _ due => absurd hw due.1, fun _ _ => silent, fun _ due => absurd hw due.1, fun _ _ => silent⟩
  · have asks : request = requestOf k false x.releaseStop := settle_request_of_not_waits hw
    have onCapture (h : k.dir = .capture) : request = if CaptureDue k x then requestAt k fill else none := by
      rw [asks, requestOf_capture h, captureRequest_releaseStop]
    have onReplay (h : k.dir = .replay) : request = if ReplayDue k x then requestAt k free else none := by
      rw [asks, requestOf_replay h, replayRequest_releaseStop]
    exact ⟨fun h due => (onCapture h).trans (if_pos due.2),
      fun h no => (onCapture h).trans (if_neg fun due => no ⟨hw, due⟩),
      fun h due => (onReplay h).trans (if_pos due.2),
      fun h no => (onReplay h).trans (if_neg fun due => no ⟨hw, due⟩)⟩

/-! ### Every command outside a reset ends with the settling of the part -/

/-- The outcome is a state that has been settled. -/
def Settles (o : Host.Outcome State Fault Refusal) : Prop := ∃ u, o = .next (settle u)

theorem event_settles {s : State} (h : s.held = none) (f : State → State) : Settles (event f s) :=
  ⟨_, event_running h f⟩

theorem hostWrite_settles {s : State} (h : s.held = none) (off : BitVec 6) (w : Word) : Settles (hostWrite off w s) :=
  event_settles h _

theorem hostRead_settles {s : State} (h : s.held = none) (off : BitVec 6) : Settles (hostRead off s) :=
  ⟨_, hostRead_running h off⟩

theorem hostAccess_settles {s : State} (h : s.held = none) (rd wr : Bool) (off : BitVec 6) (w : Word) :
    Settles (hostAccess rd wr off w s) := by
  cases rd <;> cases wr
  case false.false => exact event_settles h id
  case false.true => exact hostWrite_settles h off w
  case true.false => exact hostRead_settles h off
  case true.true =>
    have drives : hostAccess true true off w s = event (driveBus 0) s := by simp [hostAccess, h]
    exact drives ▸ event_settles h _

/-- A command outside a reset is a host access or another event, or it begins a power-on or pin reset (R141, R177). -/
theorem exec_settles_or_resets (c : Instr) {s : State} (h : s.held = none) :
    Settles (exec c s) ∨ ∃ cause, exec c s = .next (beginReset cause s) := by
  cases c with
  | powerOnReset | pinReset => exact .inr ⟨_, rfl⟩
  | nop | arm | disarm | doze | wake | portOpen | portClose | portAbort | segPost | segFlush | queueStatus | markRead
  | memFill | regionCrc | undefinedCommand | overlap | softReset | cmdCancel | xenSet | xenClr | evqThreshWrite
  | winAddrLoWrite | winAddrHiWrite | winDataWrite | cfgDataWrite | start => exact .inl (hostWrite_settles h _ _)
  | summaryRead | evqPop | winDataRead => exact .inl (hostRead_settles h _)
  | registerWrite rd wr off w => exact .inl (hostAccess_settles h rd wr off w)
  | resetRelease =>
    have nothing : exec .resetRelease s = event id s := by simp [exec, execResetRelease, h]
    exact .inl (nothing ▸ event_settles h id)
  | captureBeat | replayBeat | heldOffer | tick | owedRise | linkIdle | eventAge | writeBurstCompletion
  | readBurstCompletion | wordReadCompletion | wordWriteCompletion | refreshCompletion
  | memFillChunkCompletion | regionCrcChunkCompletion | arbitrationPoint | sleepEntry | softResetApplied
  | captureCloseEnd | replayCloseEnd => exact .inl (event_settles h _)
  | initStepCompletion => exact .inl (show Settles (execInitStepCompletion s) from event_settles h _)
  | abortExecute => exact .inl (show Settles (execAbortExecute s) from event_settles h _)

theorem settle_of_exec {c : Instr} {s t : State} (hs : s.held = none) (h : exec c s = .next t) (ht : t.held = none) :
    settle t = t := by
  obtain ⟨u, hu⟩ | ⟨cause, hr⟩ := exec_settles_or_resets c hs
  · obtain rfl : settle u = t := Host.Outcome.next.inj (hu.symm.trans h)
    exact settle_settle u
  · obtain rfl : beginReset cause s = t := Host.Outcome.next.inj (hr.symm.trans h)
    exact absurd ht (Option.some_ne_none cause)

/-! ### The tables of the link pins (R79, R85) -/

theorem settle_links (s : State) (p : PortId) :
    (settle s).pins.links.get p = linkPins ((settle s).pcfg p) ((settle s).port p) := Quad.get_map _ _ p

theorem readyPin_eq (k : PortCfg) (x : Port) :
    readyPin k x = decide ((x.state = .idle ∨ x.state = .active) ∧ (x.fifo.length < 64 ∨ k.flow ≠ .stall)) := by
  rw [Bool.eq_iff_iff]
  simp [readyPin, working_iff]

theorem linkPins_capture {k : PortCfg} (h : k.dir = .capture) (x : Port) :
    linkPins k x = { ready := readyPin k x } := by simp [linkPins, h]

theorem linkPins_replay {k : PortCfg} (h : k.dir = .replay) (x : Port) : linkPins k x = replayPins k x := by
  simp [linkPins, h]

theorem replayPins_word (k : PortCfg) {x : Port} {e : FifoWord} {rest : List FifoWord} (hf : x.fifo = e :: rest)
    (h : x.state = .active ∨ x.state = .closing) :
    replayPins k x = { valid := true, mark := e.mark, data := e.word } := by
  obtain h | h := h <;> simp [replayPins, h, hf]

theorem replayPins_active_empty (k : PortCfg) {x : Port} (hf : x.fifo = []) (h : x.state = .active) :
    replayPins k x = if k.flow = .fill then { valid := true, data := k.fillWord } else {} := by
  simp [replayPins, h, hf]

theorem replayPins_closing_empty (k : PortCfg) {x : Port} (hf : x.fifo = []) (h : x.state = .closing) :
    replayPins k x = {} := by
  simp [replayPins, h, hf]

theorem replayPins_silent (k : PortCfg) {x : Port} (h : x.state = .closed ∨ x.state = .idle ∨ x.state = .faulted) :
    replayPins k x = {} := by
  obtain h | h | h := h <;> simp [replayPins, h]

/-- Settles O8: every command outside a reset leaves the part settled, and settled pins are those of the tables. -/
theorem linkPinsFollowTheTables : Obligations.LinkPinsFollowTheTables := by
  intro c s t p hs hc ht x k
  have pins : t.pins.links.get p = linkPins k x := by
    have settled := settle_of_exec hs hc ht
    have links := settle_links t p
    rwa [settled] at links
  have replay (h : k.dir = .replay) : t.pins.links.get p = replayPins k x := pins.trans (linkPins_replay h x)
  refine ⟨fun h => ?_, fun h e rest hf hx => (replay h).trans (replayPins_word k hf hx), fun h hf hx hk => ?_,
    fun h hf hx hk => ?_, fun h hf hx => (replay h).trans (replayPins_closing_empty k hf hx),
    fun h hx => (replay h).trans (replayPins_silent k hx)⟩
  · rw [pins, linkPins_capture h, readyPin_eq]
  · rw [replay h, replayPins_active_empty k hf hx, if_pos hk]
  · rw [replay h, replayPins_active_empty k hf hx, if_neg hk]

end Sys2Proof.Proofs

/-! PROOFS. INT_N follows SUMMARY, INT_EN and the EVQ trigger (R152 to R154); the SUMMARY read and the pop of a record
(R144, R145, R148, R149, R151). -/

namespace Sys2Proof.Proofs

open Sys2Proof.Machine Sys2Proof.Safety Sys2Proof.Laws

/-! ### The conditions of the interrupt (R152 to R154) -/

/-- A mask of eight enables meets SUMMARY when some bit is set in both. -/
theorem summary_and_enables_ne_zero_iff (summary : BitVec 8) (enables : BitVec 9) :
    (summary &&& enables.setWidth 8) ≠ 0 ↔
      ∃ i : Nat, i < 8 ∧ summary.getLsbD i = true ∧ enables.getLsbD i = true := by
  constructor
  · intro meets
    by_contra none
    refine meets (BitVec.eq_of_getLsbD_eq fun i hi => ?_)
    have clear : ¬ (summary.getLsbD i = true ∧ enables.getLsbD i = true) := fun both => none ⟨i, hi, both⟩
    simpa [hi] using clear
  · rintro ⟨i, hi, set, enabled⟩ zero
    have bit : (summary &&& enables.setWidth 8).getLsbD i = true := by
      simp only [BitVec.getLsbD_and, BitVec.getLsbD_setWidth, hi, set, enabled, decide_true, Bool.and_self]
    rw [zero] at bit
    exact Bool.false_ne_true (BitVec.getLsbD_zero.symm.trans bit)

theorem ageCondition_iff (e : EventUnit) (tickCount : Word) : ageCondition e tickCount = true ↔
    e.age ≠ 0 ∧ ∃ r rest, e.queue = r :: rest ∧ e.age ≤ (tickCount - r.stamp).toNat := by
  unfold ageCondition
  cases e.queue with
  | nil => simp
  | cons r rest => simp

theorem evqTrigger_iff (e : EventUnit) (tickCount : Word) : evqTrigger e tickCount = true ↔
    e.thresh ≤ e.queue.length ∨
      (e.age ≠ 0 ∧ ∃ r rest, e.queue = r :: rest ∧ e.age ≤ (tickCount - r.stamp).toNat) ∨ e.lost = true := by
  simp only [evqTrigger, Bool.or_eq_true, decide_eq_true_iff, ageCondition_iff, or_assoc]

theorem intAsserted_iff (e : EventUnit) (tickCount : Word) : intAsserted e tickCount = true ↔
    (∃ i : Nat, i < 8 ∧ e.summary.getLsbD i = true ∧ e.intEn.getLsbD i = true) ∨
      (e.intEn.getLsbD 8 = true ∧ evqTrigger e tickCount = true) := by
  simp only [intAsserted, Bool.or_eq_true, Bool.and_eq_true, bne_iff_ne, summary_and_enables_ne_zero_iff]

theorem settle_intN (s : State) :
    (settle s).pins.intN = !intAsserted (settle s).eu (settle s).tb.tickCount := rfl

/-- Settles O7: every command outside a reset leaves the part settled, and a settled INT_N is low exactly when it is
asserted. -/
theorem interruptFollowsItsConditions : Obligations.InterruptFollowsItsConditions := by
  intro c s t hs hc ht
  have pin : t.pins.intN = !intAsserted t.eu t.tb.tickCount := by
    have settled := settle_of_exec hs hc ht
    have intN := settle_intN t
    rwa [settled] at intN
  rw [pin, Bool.not_eq_false', intAsserted_iff, evqTrigger_iff]

/-! ### The two reads that change the Event Unit (R148, R151) -/

theorem exec_summaryRead {s : State} (h : s.held = none) : exec .summaryRead s =
    .next (settle (driveBus (s.eu.summary.setWidth 16) (readSummary s))) := hostRead_running h offSummary

theorem exec_evqPop {s : State} (h : s.held = none) : exec .evqPop s =
    .next (settle (driveBus (BitVec.ofNat 16 s.eu.queue.length) (popEvent s))) := hostRead_running h offEvqPop

/-! ### The pop of a record (R144, R145, R148, R149) -/

theorem recordWords_eq (r : EvRecord) : r.words =
    { w0 := BitVec.ofNat 16 r.report.kind.code ||| BitVec.ofNat 16 (r.report.source.code * 16) |||
        BitVec.ofNat 16 (r.seqNo.toNat * 256)
      w1 := BitVec.ofNat 16 r.report.tag.toNat ||| BitVec.ofNat 16 (r.report.detail.code * 256)
      w2 := BitVec.ofNat 16 r.report.count
      w3 := BitVec.ofNat 16 (r.report.count / 65536) } := by
  simp [EvRecord.words, pack, lowWord, highWord, BitVec.or_assoc]

/-- The record that reports `n` lost ones (R149). -/
def lostReport (n : Nat) : Report := ⟨.evqLost, .sys, 0, .noDetail, n⟩

/-- The Event Unit once its oldest record `r` has moved into EVW0 to EVW3. -/
def oldestMoved (r : EvRecord) (rest : List EvRecord) (e : EventUnit) : EventUnit :=
  { e with queue := rest, evw := r.words }

/-- The Event Unit after a pop of `r`: where LOST was set, the lost records are reported at the tail. -/
def popped (stamp : Word) (r : EvRecord) (rest : List EvRecord) (e : EventUnit) : EventUnit :=
  if e.lost = true then
    { storeRecord (lostReport e.lostCount) stamp (oldestMoved r rest e) with lostCount := 0, lost := false }
  else oldestMoved r rest e

theorem popEvent_of_queue (s : State) : (s.eu.queue = [] → popEvent s = s) ∧
    (∀ r rest, s.eu.queue = r :: rest → popEvent s = s.updEu (popped s.tb.tickCount r rest)) := by
  unfold popEvent
  cases s.eu.queue with
  | nil => exact ⟨fun _ => rfl, fun _ _ h => absurd h (List.cons_ne_nil _ _).symm⟩
  | cons r rest =>
    refine ⟨fun h => absurd h (List.cons_ne_nil _ _), fun _ _ h => ?_⟩
    obtain ⟨rfl, rfl⟩ := List.cons.inj h
    rfl

theorem updEu_of_eq {f : EventUnit → EventUnit} {s : State} {e : EventUnit} (h : f s.eu = e) :
    s.updEu f = { s with eu := e } := congrArg (fun x => { s with eu := x }) h

theorem popped_of_not_lost (stamp : Word) (r : EvRecord) (rest : List EvRecord) {e : EventUnit}
    (kept : e.lost = false) : popped stamp r rest e = oldestMoved r rest e := if_neg (Bool.eq_false_iff.1 kept)

/-- A count that a record holds is stored as it is (R145). -/
theorem storeRecord_of_count_le {r : Report} (h : r.count ≤ 4294967295) (stamp : Word) (e : EventUnit) :
    storeRecord r stamp e = { e with queue := e.queue ++ [⟨r, e.seqNo, stamp⟩], seqNo := e.seqNo + 1 } := by
  rw [storeRecord, Nat.min_eq_left h]

theorem popped_of_lost (stamp : Word) (r : EvRecord) (rest : List EvRecord) {e : EventUnit} (lost : e.lost = true)
    (few : e.lostCount ≤ 255) : popped stamp r rest e =
      { oldestMoved r rest e with
        queue := rest ++ [⟨lostReport e.lostCount, e.seqNo, stamp⟩]
        seqNo := e.seqNo + 1
        lostCount := 0
        lost := false } := by
  have fits : (lostReport e.lostCount).count ≤ 4294967295 := few.trans (by decide)
  rw [popped, if_pos lost, storeRecord_of_count_le fits]
  rfl

theorem evKind_codes :
    [EvKind.segDone, .segShort, .segAborted, .segCancelled, .guard, .overrun, .underrun, .linkIdle, .parity,
      .portClosed, .portFault, .refreshLost, .evqLost, .memReady].map EvKind.code =
        (List.range 14).map (· + 1) := by decide

theorem source_codes :
    [Source.port .p0, .port .p1, .port .p2, .port .p3, .mem, .host, .sys].map Source.code = List.range 7 := by decide

theorem detail_codes :
    [Detail.noDetail, .markEnd, .close, .closeIdle, .hostAbort, .fault, .flush, .abort, .overrun, .parity].map
      Detail.code = List.range 10 := by decide

/-- Settles O26: the codes by evaluation, then a pop by what the queue holds and whether LOST is set. -/
theorem summaryReadAndEvqPop : Obligations.SummaryReadAndEvqPop := by
  refine ⟨evKind_codes, source_codes, detail_codes, fun s h => ⟨?_, fun empty => ?_, fun r rest hq => ?_⟩⟩
  · rw [exec_summaryRead h, BitVec.ofNat_toNat]
    rfl
  · rw [exec_evqPop h, (popEvent_of_queue s).1 empty, empty]
    rfl
  · have pops := exec_evqPop h
    rw [(popEvent_of_queue s).2 r rest hq, hq, List.length_cons] at pops
    rw [← recordWords_eq r]
    refine ⟨fun kept => ?_, fun lost few => ?_⟩
    · rw [pops, updEu_of_eq (popped_of_not_lost _ r rest kept)]
      rfl
    · rw [pops, updEu_of_eq (popped_of_lost _ r rest lost few)]
      rfl

end Sys2Proof.Proofs

/-! PROOFS. The command reference: NOP's identity words (R157) and the arguments of SEG_POST (R165). -/

namespace Sys2Proof.Proofs

open Sys2Proof.Machine Sys2Proof.Safety Sys2Proof.Laws

/-! ### NOP (R157) -/

/-- NOP takes no port and every device state admits it (R8, R20). -/
theorem refusal_nop (s : State) (p : PortId) : refusal s 0x00 p = none := by
  have noPort : refusal s 0x00 p = deviceRefusal s 0x00 := rfl
  rw [noPort, ← deviceCheck_eq_deviceRefusal s (0x00, .nop) (by decide)]
  rfl

/-- Settles O9: no check turns NOP away, so the CMD write has NOP's own effect. -/
theorem nopReturnsTheIdentity : Obligations.NopReturnsTheIdentity := by
  intro high s takes
  have admitted : Admitted s 0x00 (portField high) := ⟨takes, refusal_nop s _⟩
  exact command_effect (c := .nop) rfl admitted

/-! ### The fields of Table 9-2 -/

theorem splitNumber_six (lo hi : Word) : splitNumber lo hi 6 = lo.toNat + 65536 * (hi.toNat % 64) := by
  have low : bits hi 0 6 = hi.toNat % 64 := bits_low hi 6
  rw [splitNumber, low, Nat.mul_comm]

theorem hasGuard_testBit (a : Args) : hasGuard a = a.a0.toNat.testBit 12 := flag_testBit _ _

theorem hasRepeat_testBit (a : Args) : hasRepeat a = a.a0.toNat.testBit 13 := flag_testBit _ _

theorem segPostDesc_guard (a : Args) : (segPostDesc a).guard =
    if a.a0.toNat.testBit 12 then some (a.a5.toNat + 65536 * (a.a6.toNat % 64)) else none := by
  rw [← hasGuard_testBit, ← splitNumber_six]
  rfl

theorem segPostDesc_rpt (a : Args) : (segPostDesc a).rpt =
    if a.a0.toNat.testBit 13 then some (a.a7.toNat % 256) else none := by
  have low : bits a.a7 0 8 = a.a7.toNat % 256 := bits_low a.a7 8
  rw [← hasRepeat_testBit, ← low]
  rfl

/-- ARG6 is tested only with HAS_GUARD, ARG7 only with HAS_REPEAT. -/
theorem segPostZeros_iff (a : Args) : segPostZeros a = true ↔
    a.a0.toNat < 16384 ∧ a.a2.toNat < 64 ∧ a.a4.toNat < 64 ∧
      (a.a0.toNat.testBit 12 = true → a.a6.toNat < 64) ∧ (a.a0.toNat.testBit 13 = true → a.a7.toNat < 256) := by
  have above13 (w : Word) : bits w 14 2 = 0 ↔ w.toNat < 16384 := bits_top_eq_zero w 14 2 rfl
  have above5 (w : Word) : bits w 6 10 = 0 ↔ w.toNat < 64 := bits_top_eq_zero w 6 10 rfl
  have above7 (w : Word) : bits w 8 8 = 0 ↔ w.toNat < 256 := bits_top_eq_zero w 8 8 rfl
  have unlessSet (b c : Bool) : (!b || c) = true ↔ (b = true → c = true) := by cases b <;> simp
  simp only [segPostZeros, Bool.and_eq_true, unlessSet, beq_iff_eq, above13, above5, above7, hasGuard_testBit,
    hasRepeat_testBit, and_assoc]

/-- Settles O17: the descriptor field by field, then the tested must-be-zero bits. -/
theorem segPostArgumentLayout : Obligations.SegPostArgumentLayout := by
  intro a d hasG hasR
  have tag : d.tag.toNat = a.a0.toNat % 256 := BitVec.toNat_setWidth 8 a.a0
  have flagged (i : Nat) : flag a.a0 i = a.a0.toNat.testBit i := flag_testBit a.a0 i
  exact ⟨tag, flagged 8, flagged 9, flagged 10, flagged 11, splitNumber_six a.a1 a.a2, splitNumber_six a.a3 a.a4,
    segPostDesc_guard a, segPostDesc_rpt a, segPostZeros_iff a⟩

end Sys2Proof.Proofs

/-! PROOFS. What one step can do, for every command at once: the events of a part that runs, and what a held part does.
An invariant then needs one argument for each event. -/

namespace Sys2Proof.Proofs

open Sys2Proof.Machine Sys2Proof.Safety Sys2Proof.Laws

/-! ### The events -/

/-- A requester's own processing of its completion, once the controller has ended the transaction (R49). -/
def Processed (f : Flight) (s u : State) : Prop :=
  (portBurst .writeBurst f = true ∧ u = captureCompletion f s) ∨
  (portBurst .readBurst f = true ∧ u = replayCompletion f s) ∨
  (hostBurst .wordRead f = true ∧ u = wordReadCompletion f s) ∨
  (hostBurst .wordWrite f = true ∧ u = wordWriteCompletion f s) ∨
  (f.who = .refresh ∧ u = refreshCompletion f s) ∨
  (hostBurst .writeBurst f = true ∧ u = fillCompletion f s) ∨
  (hostBurst .readBurst f = true ∧ u = crcCompletion f s)

/-- What a command of a part that is not held makes of the state before the part settles, power-on and pin reset apart:
nothing, a host access, a link event, a part of a tick, a completion, or one of the steps that act when due. -/
def Effect (s u : State) : Prop :=
  u = s ∨
  (∃ off w, (s.sc.resetPending = true → off = offDevCtrl) ∧ u = writeRegister off w s) ∨
  (∃ off, u = driveBus (readValue s off) (readEffect off s)) ∨
  u = driveBus 0 s ∨
  (∃ p w m, u = captureBeat p w m s) ∨
  (∃ p, u = replayBeat p s) ∨
  (∃ p, u = heldOffer p s) ∨
  u = tickSteps s ∨
  (s.mc.state = .ready ∧ u = riseAtInterval s) ∨
  (∃ p, idleReached s p = true ∧ u = declareIdle p s) ∨
  (∃ f v, s.mc.flight = some f ∧ Processed f (endFlight s) v ∧ u = afterCompletion f.who v) ∨
  (∃ f, s.mc.flight = some f ∧ f.who = .controller ∧ u = deferredReset (initStep s)) ∨
  u = arbitrate s ∨
  (sleepDue s = true ∧ u = enterSleep s) ∨
  (s.mc.flight = none ∧ u = deferredReset s) ∨
  (∃ p, s.hp.seq.running = some (.portAbort p) ∧ s.mc.flight = none ∧
    u = finish .ok {} (closeGrant (abortPort p s))) ∨
  (∃ p, u = closeTest p s)

namespace Effect

variable {s : State}

theorem nothing (s : State) : Effect s s := .inl rfl

theorem write (off : BitVec 6) (w : Word) (s : State) :
    Effect s (if s.sc.resetPending && off != offDevCtrl then s else writeRegister off w s) := by
  split
  · exact nothing s
  next h =>
    refine .inr (.inl ⟨off, w, fun hp => ?_, rfl⟩)
    simpa [hp] using h

theorem read (off : BitVec 6) (s : State) : Effect s (driveBus (readValue s off) (readEffect off s)) :=
  .inr (.inr (.inl ⟨off, rfl⟩))

theorem drive (s : State) : Effect s (driveBus 0 s) := .inr (.inr (.inr (.inl rfl)))

theorem capture (p : PortId) (w : Word) (m : Bool) (s : State) : Effect s (captureBeat p w m s) :=
  .inr (.inr (.inr (.inr (.inl ⟨p, w, m, rfl⟩))))

theorem replay (p : PortId) (s : State) : Effect s (replayBeat p s) := .inr (.inr (.inr (.inr (.inr (.inl ⟨p, rfl⟩)))))

theorem offer (p : PortId) (s : State) : Effect s (heldOffer p s) :=
  .inr (.inr (.inr (.inr (.inr (.inr (.inl ⟨p, rfl⟩))))))

theorem tick (s : State) : Effect s (tickSteps s) := .inr (.inr (.inr (.inr (.inr (.inr (.inr (.inl rfl)))))))

theorem rise (s : State) :
    Effect s (if s.mc.state = .ready ∧ intervalReached s = true then riseAtInterval s else s) := by
  split
  next h => exact .inr (.inr (.inr (.inr (.inr (.inr (.inr (.inr (.inl ⟨h.1, rfl⟩))))))))
  · exact nothing s

theorem idle (p : PortId) (s : State) : Effect s (if idleReached s p then declareIdle p s else s) := by
  split
  next h => exact .inr (.inr (.inr (.inr (.inr (.inr (.inr (.inr (.inr (.inl ⟨p, h, rfl⟩)))))))))
  · exact nothing s

/-- A row completes a transaction when the transaction in flight is its own. -/
theorem completion {row : Flight → Bool} {handle : Flight → State → State}
    (h : ∀ f t, row f = true → Processed f t (handle f t)) (s : State) : Effect s (complete row handle s) := by
  unfold complete
  split
  next f hf =>
    split
    next hr =>
      exact .inr (.inr (.inr (.inr (.inr (.inr (.inr (.inr (.inr (.inr (.inl ⟨f, _, hf, h f _ hr, rfl⟩))))))))))
    · exact nothing s
  · exact nothing s

theorem arbitration (s : State) : Effect s (arbitrate s) :=
  .inr (.inr (.inr (.inr (.inr (.inr (.inr (.inr (.inr (.inr (.inr (.inr (.inl rfl))))))))))))

theorem sleep (s : State) : Effect s (if sleepDue s then enterSleep s else s) := by
  split
  next h =>
    exact .inr (.inr (.inr (.inr (.inr (.inr (.inr (.inr (.inr (.inr (.inr (.inr (.inr (.inl ⟨h, rfl⟩)))))))))))))
  · exact nothing s

theorem applied (s : State) : Effect s (if s.mc.flight.isNone then deferredReset s else s) := by
  split
  next h =>
    exact .inr (.inr (.inr (.inr (.inr (.inr (.inr (.inr (.inr (.inr (.inr (.inr (.inr (.inr
      (.inl ⟨by simpa using h, rfl⟩))))))))))))))
  · exact nothing s

theorem closeEnd (d : Dir) (p : PortId) (s : State) : Effect s (if (s.pcfg p).dir = d then closeTest p s else s) := by
  split
  · exact .inr (.inr (.inr (.inr (.inr (.inr (.inr (.inr (.inr (.inr (.inr (.inr (.inr (.inr (.inr (.inr
      ⟨p, rfl⟩)))))))))))))))
  · exact nothing s

end Effect

/-- The outcome is the settled state of an event. -/
def RunsEvent (s : State) (o : Host.Outcome State Fault Refusal) : Prop := ∃ u, Effect s u ∧ o = .next (settle u)

theorem event_runs {s : State} (h : s.held = none) {f : State → State} (hf : Effect s (f s)) : RunsEvent s (event f s) :=
  ⟨f s, hf, event_running h f⟩

theorem hostWrite_runs {s : State} (h : s.held = none) (off : BitVec 6) (w : Word) :
    RunsEvent s (hostWrite off w s) := event_runs h (.write off w s)

theorem hostRead_runs {s : State} (h : s.held = none) (off : BitVec 6) : RunsEvent s (hostRead off s) :=
  ⟨_, .read off s, hostRead_running h off⟩

theorem hostAccess_runs {s : State} (h : s.held = none) (rd wr : Bool) (off : BitVec 6) (w : Word) :
    RunsEvent s (hostAccess rd wr off w s) := by
  cases rd <;> cases wr
  case false.false => exact event_runs (f := id) h (.nothing s)
  case false.true => exact hostWrite_runs h off w
  case true.false => exact hostRead_runs h off
  case true.true =>
    have drives : hostAccess true true off w s = event (driveBus 0) s := by simp [hostAccess, h]
    exact drives ▸ event_runs h (.drive s)

theorem initStepCompletion_runs {s : State} (h : s.held = none) : RunsEvent s (execInitStepCompletion s) := by
  refine ⟨_, ?_, event_running h _⟩
  split
  next f hf =>
    split
    next hw =>
      exact .inr (.inr (.inr (.inr (.inr (.inr (.inr (.inr (.inr (.inr (.inr
        (.inl ⟨f, hf, eq_of_beq hw, rfl⟩)))))))))))
    · exact .nothing s
  · exact .nothing s

theorem abortExecute_runs {s : State} (h : s.held = none) : RunsEvent s (execAbortExecute s) := by
  refine ⟨_, ?_, event_running h _⟩
  split
  next p hp =>
    split
    next h =>
      exact .inr (.inr (.inr (.inr (.inr (.inr (.inr (.inr (.inr (.inr (.inr (.inr (.inr (.inr (.inr
        (.inl ⟨p, hp, by simpa using h, rfl⟩)))))))))))))))
    · exact .nothing s
  all_goals exact .nothing s

/-- Each completion row is the completion of the transaction it names (R47, R49). -/
theorem completionRow_runs {s : State} (h : s.held = none) {c : Instr} (hc : c ∈ completionRows) :
    RunsEvent s (exec c s) := by
  simp only [completionRows, List.mem_cons, List.not_mem_nil, or_false] at hc
  rcases hc with rfl | rfl | rfl | rfl | rfl | rfl | rfl | rfl
  · exact event_runs h (.completion (fun _ _ hr => .inl ⟨hr, rfl⟩) s)
  · exact event_runs h (.completion (fun _ _ hr => .inr (.inl ⟨hr, rfl⟩)) s)
  · exact event_runs h (.completion (fun _ _ hr => .inr (.inr (.inl ⟨hr, rfl⟩))) s)
  · exact event_runs h (.completion (fun _ _ hr => .inr (.inr (.inr (.inl ⟨hr, rfl⟩)))) s)
  · exact event_runs h (.completion (fun _ _ hr => .inr (.inr (.inr (.inr (.inl ⟨eq_of_beq hr, rfl⟩))))) s)
  · exact initStepCompletion_runs h
  · exact event_runs h (.completion (fun _ _ hr => .inr (.inr (.inr (.inr (.inr (.inl ⟨hr, rfl⟩)))))) s)
  · exact event_runs h (.completion (fun _ _ hr => .inr (.inr (.inr (.inr (.inr (.inr ⟨hr, rfl⟩)))))) s)

/-- A command that begins no power-on or pin reset is one of the events. -/
theorem exec_runs {c : Instr} (hc : c ≠ .powerOnReset ∧ c ≠ .pinReset) {s : State} (h : s.held = none) :
    RunsEvent s (exec c s) := by
  cases c with
  | powerOnReset => exact absurd rfl hc.1
  | pinReset => exact absurd rfl hc.2
  | nop | arm | disarm | doze | wake | portOpen | portClose | portAbort | segPost | segFlush | queueStatus | markRead
  | memFill | regionCrc | undefinedCommand | overlap | softReset | cmdCancel | xenSet | xenClr | evqThreshWrite
  | winAddrLoWrite | winAddrHiWrite | winDataWrite | cfgDataWrite | start => exact hostWrite_runs h _ _
  | summaryRead | evqPop | winDataRead => exact hostRead_runs h _
  | registerWrite rd wr off w => exact hostAccess_runs h rd wr off w
  | resetRelease =>
    have nothing : exec .resetRelease s = event id s := by simp [exec, execResetRelease, h]
    exact nothing ▸ event_runs h (.nothing s)
  | captureBeat p w m => exact event_runs h (.capture p w m s)
  | replayBeat p => exact event_runs h (.replay p s)
  | heldOffer p => exact event_runs h (.offer p s)
  | tick => exact event_runs h (.tick s)
  | owedRise => exact event_runs h (.rise s)
  | linkIdle p => exact event_runs h (.idle p s)
  | eventAge => exact event_runs h (.nothing s)
  | writeBurstCompletion | readBurstCompletion | wordReadCompletion | wordWriteCompletion | refreshCompletion
  | initStepCompletion | memFillChunkCompletion | regionCrcChunkCompletion =>
    exact completionRow_runs h (by simp [completionRows])
  | arbitrationPoint => exact event_runs h (.arbitration s)
  | sleepEntry => exact event_runs h (.sleep s)
  | softResetApplied => exact event_runs h (.applied s)
  | abortExecute => exact abortExecute_runs h
  | captureCloseEnd p => exact event_runs h (.closeEnd .capture p s)
  | replayCloseEnd p => exact event_runs h (.closeEnd .replay p s)

/-! ### A part held in reset (R177) -/

theorem event_held {s : State} {cause : ResetCause} (h : s.held = some cause) (f : State → State) :
    event f s = .next s := by simp [event, h]

theorem hostWrite_held {s : State} {cause : ResetCause} (h : s.held = some cause) (off : BitVec 6) (w : Word) :
    hostWrite off w s = .next s := event_held h _

theorem hostRead_held {s : State} {cause : ResetCause} (h : s.held = some cause) (off : BitVec 6) :
    hostRead off s = .next (driveBus 0 s) := by simp [hostRead, h]

/-- A held part drives 0000H to a read and ignores every other event. -/
theorem exec_held {c : Instr} (hc : isReset c = false) {s : State} {cause : ResetCause} (h : s.held = some cause) :
    exec c s = .next (if isRead c then driveBus 0 s else s) := by
  cases c with
  | powerOnReset | pinReset | resetRelease => cases hc
  | summaryRead | evqPop | winDataRead => exact hostRead_held h _
  | registerWrite rd wr off w =>
    cases rd <;> cases wr
    case false.false => exact event_held h id
    case false.true => exact hostWrite_held h off w
    case true.false => exact hostRead_held h off
    case true.true => simp [exec, execRegisterWrite, hostAccess, h, isRead]
  | nop | arm | disarm | doze | wake | portOpen | portClose | portAbort | segPost | segFlush | queueStatus | markRead
  | memFill | regionCrc | undefinedCommand | overlap | softReset | cmdCancel | xenSet | xenClr | evqThreshWrite
  | winAddrLoWrite | winAddrHiWrite | winDataWrite | cfgDataWrite | start => exact hostWrite_held h _ _
  | captureBeat | replayBeat | heldOffer | tick | owedRise | linkIdle | eventAge | writeBurstCompletion
  | readBurstCompletion | wordReadCompletion | wordWriteCompletion | refreshCompletion
  | memFillChunkCompletion | regionCrcChunkCompletion | arbitrationPoint | sleepEntry | softResetApplied
  | captureCloseEnd | replayCloseEnd => exact event_held h _
  | initStepCompletion => exact (show execInitStepCompletion s = _ from event_held h _)
  | abortExecute => exact (show execAbortExecute s = _ from event_held h _)

/-! ### Every command -/

/-- What one command leaves: the settled state of an event, a reset begun or released, or a held part as it was, its bus
aside. -/
theorem exec_cases (c : Instr) (s : State) :
    (s.held = none ∧ RunsEvent s (exec c s)) ∨ (∃ cause, exec c s = .next (beginReset cause s)) ∨
      (∃ cause, exec c s = .next (hardReset cause s)) ∨
      (s.held.isSome = true ∧ (exec c s = .next s ∨ exec c s = .next (driveBus 0 s))) := by
  by_cases hc : c = .powerOnReset ∨ c = .pinReset
  · rcases hc with rfl | rfl <;> exact .inr (.inl ⟨_, rfl⟩)
  · cases hs : s.held with
    | none => exact .inl ⟨rfl, exec_runs (not_or.1 hc) hs⟩
    | some cause =>
      refine .inr (.inr ?_)
      by_cases hr : c = .resetRelease
      · subst hr
        exact .inl ⟨cause, by simp [exec, execResetRelease, hs]⟩
      · have hn : isReset c = false := by cases c <;> simp_all [isReset]
        refine .inr ⟨rfl, ?_⟩
        rw [exec_held hn hs]
        cases isRead c
        · exact .inl rfl
        · exact .inr rfl

/-- A predicate that survives each thing a step can do holds after every step from a state where it holds. -/
theorem step_keeps {I : State → Prop} (pending : ∀ s l, I s → I { s with pending := l })
    (bus : ∀ s, s.held.isSome = true → I s → I (driveBus 0 s)) (held : ∀ s cause, I s → I (beginReset cause s))
    (released : ∀ s cause, I s → I (hardReset cause s)) (period : ∀ s, s.held = none → I s → I (refclkPeriod s))
    (event : ∀ s u, s.held = none → I s → Effect s u → I (settle u)) {s t : State} (hs : I s)
    (h : step s = .next t) : I t := by
  have command (c : Instr) (s : State) (hs : I s) (h : exec c s = .next t) : I t := by
    rcases exec_cases c s with ⟨hn, u, hu, he⟩ | ⟨cause, he⟩ | ⟨cause, he⟩ | ⟨hh, he | he⟩ <;>
      obtain rfl := Host.Outcome.next.inj (he.symm.trans h)
    · exact event s u hn hs hu
    · exact held s cause hs
    · exact released s cause hs
    · exact hs
    · exact bus s hh hs
  rcases step_cases h with ⟨c, rest, -, he⟩ | ⟨-, ⟨-, rfl⟩ | he | he | ⟨hn, rfl⟩⟩
  · exact command c _ (pending s rest hs) he
  · exact hs
  · exact command _ s hs he
  · exact command _ s hs he
  · exact period s hn hs

end Sys2Proof.Proofs

/-! PROOFS. The mark log keeps its newest entries (R103, R137), and DONE of a head descriptor (R106, R113). -/

namespace Sys2Proof.Proofs

open Sys2Proof.Machine Sys2Proof.Safety Sys2Proof.Laws

/-! ### The mark log (R103, R137) -/

/-- The newest 16 of a list of entries. -/
def newest (l : List MarkEntry) : List MarkEntry := l.drop (l.length - 16)

theorem newest_def (l : List MarkEntry) : newest l = l.drop (l.length - 16) := rfl

theorem newest_of_length_le {l : List MarkEntry} (h : l.length ≤ 16) : newest l = l := by
  simp [newest_def, Nat.sub_eq_zero_of_le h]

theorem newest_length_le (l : List MarkEntry) : (newest l).length ≤ 16 := by
  simp [newest_def]
  omega

theorem newest_newest_append (l m : List MarkEntry) : newest (newest l ++ m) = newest (l ++ m) := by
  unfold newest
  rw [← List.drop_append_of_le_length (by omega), List.drop_drop, List.length_drop, List.length_append]
  congr 1
  omega

/-- A port's log after the entries `l`. -/
def Port.logged (l : List MarkEntry) (x : Port) : Port :=
  { x with marks := newest (x.marks ++ l), overwrites := min 255 (x.overwrites + ((x.marks ++ l).length - 16)) }

theorem Port.logMark_eq_logged (m : MarkEntry) {x : Port} (hm : x.marks.length ≤ 16) (ho : x.overwrites ≤ 255) :
    x.logMark m = Port.logged [m] x := by
  unfold Port.logMark Port.logged
  split
  next h =>
    rw [newest_of_length_le (by simp; omega)]
    simp
    omega
  next h =>
    have full : x.marks.length = 16 := by omega
    simp only [newest_def, List.length_append, full, List.length_singleton, List.drop_append_of_le_length, List.drop_one,
      Nat.reduceAdd, Nat.reduceSub, Nat.reduceLeDiff, saturate]
    congr 1
    split <;> omega

theorem Port.logged_logged (l m : List MarkEntry) (x : Port) :
    Port.logged m (Port.logged l x) = Port.logged (l ++ m) x := by
  unfold Port.logged
  simp only [newest_newest_append, List.append_assoc]
  congr 1
  simp only [newest_def, List.length_append, List.length_drop]
  omega

theorem Port.logged_nil {x : Port} (hm : x.marks.length ≤ 16) (ho : x.overwrites ≤ 255) : Port.logged [] x = x := by
  unfold Port.logged
  rw [List.append_nil, newest_of_length_le hm, Nat.sub_eq_zero_of_le hm, Nat.add_zero, Nat.min_eq_right ho]

/-- The entries that a burst's words add, in address order (R103). -/
def markEntries (tag : Byte) (index addr : Nat) : List FifoWord → List MarkEntry
  | [] => []
  | w :: ws => (if w.mark then [⟨tag, index, addr⟩] else []) ++ markEntries tag (index + 1) (addr + 1) ws

theorem markEntries_cons (tag : Byte) (index addr : Nat) (w : FifoWord) (ws : List FifoWord) :
    markEntries tag index addr (w :: ws) =
      (if w.mark then [⟨tag, index, addr⟩] else []) ++ markEntries tag (index + 1) (addr + 1) ws := rfl

theorem logMarks_eq_logged (tag : Byte) (index addr : Nat) (ws : List FifoWord) {x : Port}
    (hm : x.marks.length ≤ 16) (ho : x.overwrites ≤ 255) :
    x.logMarks tag index addr ws = Port.logged (markEntries tag index addr ws) x := by
  induction ws generalizing index addr x with
  | nil => exact (Port.logged_nil hm ho).symm
  | cons w ws ih =>
    rw [Port.logMarks, markEntries_cons]
    cases w.mark with
    | false => exact ih _ _ hm ho
    | true =>
      have hl := Port.logMark_eq_logged ⟨tag, index, addr⟩ hm ho
      simp only [if_true, hl]
      rw [ih _ _ (newest_length_le _) (Nat.min_le_left _ _), Port.logged_logged]

theorem markEntries_eq_filterMap (tag : Byte) (index addr : Nat) (ws : List FifoWord) :
    markEntries tag index addr ws = (List.range ws.length).filterMap fun k =>
      if (ws[k]?.map (·.mark)) = some true then some ⟨tag, index + k, addr + k⟩ else none := by
  induction ws generalizing index addr with
  | nil => rfl
  | cons w ws ih =>
    rw [markEntries_cons, ih, List.length_cons, List.range_succ_eq_map, List.filterMap_cons, List.filterMap_map]
    have shift (k : Nat) : index + 1 + k = index + (k + 1) ∧ addr + 1 + k = addr + (k + 1) := by omega
    simp only [(shift _).1, (shift _).2]
    cases h : w.mark <;> simp [h]

/-- Settles O39: each entry keeps the newest 16 and counts what it pushes out; by induction over the words. -/
theorem markLogKeepsTheNewestSixteen : Obligations.MarkLogKeepsTheNewestSixteen := by
  intro tag index addr ws x hm ho added all
  rw [logMarks_eq_logged tag index addr ws hm ho, markEntries_eq_filterMap]
  rfl

/-! ### DONE of the head (R106 and R113, steps 3 to 6) -/

theorem updPort_updPort (p : PortId) (f g : Port → Port) (s : State) :
    (s.updPort p f).updPort p g = s.updPort p (g ∘ f) := by
  apply State.eq_of_fields <;> simp [State.updPort]

theorem updPort_eq_withPort (p : PortId) (f : Port → Port) (s : State) :
    s.updPort p f = withPort p (f (s.port p)) s := rfl

/-- Port p once its head is DONE (R116, R119, R121, R101). -/
def Port.doneWith (dir : Dir) (d : Desc) (x : Port) : Port :=
  Port.idleIfEmpty
    ((if d.recycle && x.state != .closing then Port.append dir d else id)
      ((if d.stop then fun y : Port => { y with xen := false } else id) x.dropHead))

/-- DONE, with its record, the port's change and its SUMMARY bit apart. -/
theorem doneHead_eq {p : PortId} (detail : Detail) {s : State} {h : QEntry} {t : List QEntry}
    (hq : (s.port p).queue = h :: t) :
    doneHead p detail s = (if h.desc.stop then setSummary (summaryStop p) else id)
      (withPort p (Port.doneWith (s.pcfg p).dir h.desc (s.port p))
        (if h.desc.notify || h.desc.stop then post ⟨.segDone, .port p, h.desc.tag, detail, h.progress⟩ s else s)) := by
  unfold doneHead Port.doneWith
  simp only [hq]
  generalize hr : (h.desc.recycle && (s.port p).state != .closing) = copied
  cases h.desc.stop <;> cases copied <;> cases h.desc.notify <;>
    apply State.eq_of_fields <;> simp [postPort, updPort_updPort]

theorem doneHead_nil {p : PortId} (detail : Detail) {s : State} (hq : (s.port p).queue = []) :
    doneHead p detail s = s := by simp [doneHead, hq]

theorem summaryStop_eq (p : PortId) : summaryStop p = BitVec.ofNat 8 (2 ^ portIndex p) := by cases p <;> rfl

theorem stopSummary_eq (b : Bool) (m : BitVec 8) (s : State) : (if b then setSummary m else id) s =
    { s with eu := { s.eu with summary := if b then s.eu.summary ||| m else s.eu.summary } } := by
  cases b <;> rfl

/-- Port p once its head is DONE, field by field. -/
theorem Port.doneWith_eq (dir : Dir) {h : QEntry} {t : List QEntry} {x : Port} (hq : x.queue = h :: t) :
    let copied := h.desc.recycle = true ∧ x.state ≠ .closing
    let queue := if copied then t ++ [{ desc := h.desc, progress := 0, started := false }] else t
    let cursor := x.fetch.map fun c => { c with pos := c.pos - 1 }
    let y := { x with
      queue := queue
      xen := if h.desc.stop then false else x.xen
      fetch := if copied ∧ dir = .replay ∧ cursor = none then some { pos := t.length, rep := 1, off := 0 } else cursor
      stopBlock := x.stopBlock.shift }
    Port.doneWith dir h.desc x = if x.state = .active ∧ queue = [] then
      { y with state := .idle, idleCount := 0, idleDeclared := false, underrun := false } else y := by
  intro copied queue cursor y
  have hc : (h.desc.recycle && x.state != .closing) = decide copied := by
    rw [Bool.eq_iff_iff]
    simp [copied]
  have hs : ((if h.desc.stop then fun y : Port => { y with xen := false } else id) x.dropHead) =
      { x.dropHead with xen := if h.desc.stop then false else x.xen } := by
    cases h.desc.stop <;> rfl
  unfold Port.doneWith
  rw [hc, hs]
  by_cases c : copied
  · simp only [c, decide_true, if_true, Port.idleIfEmpty, Port.append, Port.dropHead, hq, List.tail_cons, Port.enterIdle,
      queue, y, true_and, cursor]
  · simp only [c, decide_false, Bool.false_eq_true, if_false, Port.idleIfEmpty, Port.dropHead, hq, List.tail_cons, Port.enterIdle,
      queue, y, false_and, cursor, id]

/-- Settles O38: the port's change by `Port.doneWith_eq`; the record and the SUMMARY bit stand apart from it. -/
theorem doneOfTheHead : Obligations.DoneOfTheHead := by
  intro p detail s h t x copied hq queue cursor y reported moved
  have hport := Port.doneWith_eq (s.pcfg p).dir hq
  rw [doneHead_eq detail hq, hport]
  have hr : (if h.desc.notify || h.desc.stop then post ⟨.segDone, .port p, h.desc.tag, detail, h.progress⟩ s else s) =
      reported := if_congr (by simp) rfl rfl
  rw [hr, summaryStop_eq, stopSummary_eq]
  rfl

end Sys2Proof.Proofs

/-! PROOFS. The ARM check finds no failure exactly on a READY memory and a legal configuration (R35 to R37). -/

namespace Sys2Proof.Proofs

open Sys2Proof.Machine Sys2Proof.Safety Sys2Proof.Laws

/-! ### What it means that nothing fails -/

theorem armCheck_eq_none (s : State) : armCheck s = none ↔ ∀ f, ¬ Fails s f := by
  have finds := armCheck_findsFirst s
  constructor
  · intro h
    rw [h] at finds
    exact finds
  · intro h
    cases hc : armCheck s with
    | none => rfl
    | some f =>
      rw [hc] at finds
      exact absurd finds.1 (h f)

/-- A check whose report is `g` is silent for every report exactly when its condition does not hold. -/
theorem forall_not_and_eq {P : Prop} {g : ArmFailure} : (∀ f, ¬ (P ∧ f = g)) ↔ ¬ P :=
  ⟨fun h hP => h g ⟨hP, rfl⟩, fun h _ hf => h hf.1⟩

/-- No global item fails (R36, items 1 to 7). -/
theorem no_globalFails_iff (c : Cfg) : (∀ f, ¬ GlobalFails c f) ↔
    bits c.memGeom 0 2 ≠ 3 ∧ 16 ≤ c.tickDiv.toNat ∧ bits c.refresh 0 8 ≠ 0 ∧
    (1 ≤ bits c.refresh 8 4 ∧ bits c.refresh 8 4 ≤ 6) ∧ bits c.arbCtrl 10 5 ≤ 15 ∧ bits c.arbCtrl 5 5 ≤ 15 ∧
    bits c.arbCtrl 0 5 ≤ 15 := by
  simp only [GlobalFails, not_or, forall_and, forall_not_and_eq, not_lt, not_not, ne_eq]

/-- No condition on one PRESENT port fails (R35, R36). -/
theorem no_portFails_iff (c : Cfg) (p : PortId) :
    (∀ f, ¬ PortFails (memoryUnits c) (c.ports.get p) (portIndex p) f) ↔ LegalPort c.memorySize (c.ports.get p) := by
  have fits : c.memorySize < (c.ports.get p).regionEnd ↔
      memoryUnits c < bits (c.ports.get p).regionBase 0 12 + bits (c.ports.get p).regionSize 0 13 := by
    rw [memorySize_eq, PortCfg.regionEnd]
    exact Nat.mul_lt_mul_right (by norm_num)
  have flow : (¬ (bits (c.ports.get p).pcfg 2 2 = 3 ∨ (flag (c.ports.get p).pcfg 1 = true ∧ bits (c.ports.get p).pcfg 2 2 = 2))) ↔
      ((c.ports.get p).dir = .capture → (c.ports.get p).flowCode ≤ 2) ∧
        ((c.ports.get p).dir = .replay → (c.ports.get p).flowCode ≤ 1) := by
    have codes : bits (c.ports.get p).pcfg 2 2 < 4 := (BitVec.extractLsb' 2 2 _).isLt
    unfold PortCfg.dir PortCfg.flowCode
    cases flag (c.ports.get p).pcfg 1 <;> simp <;> omega
  simp only [PortFails, not_or, forall_and, forall_not_and_eq, not_lt, not_not]
  constructor
  · rintro ⟨normal, urgent, hflow, burst, size, marks, inside⟩
    exact ⟨normal, urgent, flow.1 (not_or.2 hflow), by unfold PortCfg.burstCode; omega, by unfold PortCfg.sizeUnits; omega, marks,
      not_lt.1 (mt fits.1 (not_lt.2 inside))⟩
  · rintro ⟨normal, urgent, hflow, burst, size, marks, inside⟩
    unfold PortCfg.burstCode at burst
    unfold PortCfg.sizeUnits at size
    exact ⟨normal, urgent, not_or.1 (flow.2 hflow), by omega, by omega, marks, not_lt.1 (mt fits.2 (not_lt.2 inside))⟩

theorem portIndex_injective {p q : PortId} (h : portIndex p = portIndex q) : p = q := by
  cases p <;> cases q <;> simp_all [portIndex_eq]

/-- Two regions that hold a word each share none exactly when one ends before the other begins. -/
theorem no_sharedWord_iff {a b : PortCfg} (ha : 1 ≤ a.sizeUnits) (hb : 1 ≤ b.sizeUnits) :
    (¬ ∃ x, InRegion a x ∧ InRegion b x) ↔ a.regionEnd ≤ b.regionFirst ∨ b.regionEnd ≤ a.regionFirst := by
  rw [← regionsMeet_iff (Nat.one_le_iff_ne_zero.1 ha) (Nat.one_le_iff_ne_zero.1 hb)]
  simp only [regionsMeet, Bool.and_eq_true, decide_eq_true_eq]
  omega

/-- No two PRESENT ports' regions overlap (R35, check 6). -/
theorem no_overlapFails_iff {c : Cfg}
    (sized : ∀ p : PortId, (c.ports.get p).present = true → 1 ≤ (c.ports.get p).sizeUnits) :
    (∀ f, ¬ OverlapFails c f) ↔ ∀ p q : PortId, p ≠ q → (c.ports.get p).present = true →
      (c.ports.get q).present = true → (c.ports.get p).regionEnd ≤ (c.ports.get q).regionFirst ∨
        (c.ports.get q).regionEnd ≤ (c.ports.get p).regionFirst := by
  constructor
  · intro h p q hpq hp hq
    rcases Nat.lt_or_gt_of_ne (mt portIndex_injective hpq) with hlt | hlt
    · exact (no_sharedWord_iff (sized p hp) (sized q hq)).1 fun meet => h _ ⟨p, q, hlt, hp, hq, meet, rfl⟩
    · exact ((no_sharedWord_iff (sized q hq) (sized p hp)).1 fun meet => h _ ⟨q, p, hlt, hq, hp, meet, rfl⟩).symm
  · rintro h f ⟨p, q, hlt, hp, hq, meet, _⟩
    have hpq : p ≠ q := fun e => absurd hlt (by rw [e]; exact lt_irrefl _)
    exact (no_sharedWord_iff (sized p hp) (sized q hq)).2 (h p q hpq hp hq) meet

/-- In a list of pairs with pairwise different firsts, the seconds are pairwise different exactly when no two pairs in
order share one. -/
theorem nodup_snd_iff {l : List (Nat × Nat)} (sorted : (l.map Prod.fst).Pairwise (· < ·)) :
    (l.map Prod.snd).Nodup ↔ ∀ u v k, u < v → (u, k) ∈ l → (v, k) ∉ l := by
  rw [List.pairwise_map] at sorted
  constructor
  · intro distinct u v k huv hu hv
    have same := List.inj_on_of_nodup_map distinct hu hv rfl
    exact absurd huv (by rw [(Prod.mk.inj same).1]; exact lt_irrefl _)
  · intro h
    refine List.pairwise_map.2 (sorted.imp_of_mem fun {a b} ha hb hab e => ?_)
    exact h a.1 b.1 a.2 hab ha (e ▸ hb)

/-- No two level users share a level (R35, check 7). -/
theorem no_levelFails_iff (c : Cfg) : (∀ f, ¬ LevelFails c f) ↔ ((levelUsers c).map Prod.snd).Nodup := by
  rw [nodup_snd_iff (levelUsers_sorted c)]
  constructor
  · intro h u v k huv hu hv
    exact h _ ⟨u, v, k, huv, (mem_levelUsers c u k).1 hu, (mem_levelUsers c v k).1 hv, rfl⟩
  · rintro h f ⟨u, v, k, huv, hu, hv, _⟩
    exact h u v k huv ((mem_levelUsers c u k).2 hu) ((mem_levelUsers c v k).2 hv)

/-- Settles O11: each kind of failure is silent exactly when its condition of Table 2-2 holds. -/
theorem armCheckPassesExactlyLegalConfigurations : Obligations.ArmCheckPassesExactlyLegalConfigurations := by
  intro s
  have noneFails : (∀ f, ¬ Fails s f) ↔ s.mc.state = .ready ∧ (∀ f, ¬ GlobalFails s.sc.cfg f) ∧
      (∀ p, (s.sc.cfg.ports.get p).present = true → ∀ f,
        ¬ PortFails (memoryUnits s.sc.cfg) (s.sc.cfg.ports.get p) (portIndex p) f) ∧
      (∀ f, ¬ OverlapFails s.sc.cfg f) ∧ ∀ f, ¬ LevelFails s.sc.cfg f := by
    constructor
    · intro h
      exact ⟨not_not.1 fun unready => h _ (.inl ⟨unready, rfl⟩), fun f hf => h f (.inr (.inl hf)),
        fun p hp f hf => h f (.inr (.inr (.inl ⟨p, hp, hf⟩))), fun f hf => h f (.inr (.inr (.inr (.inl hf)))),
        fun f hf => h f (.inr (.inr (.inr (.inr hf))))⟩
    · rintro ⟨ready, globals, ports, overlaps, levels⟩ f (⟨unready, _⟩ | hf | ⟨p, hp, hf⟩ | hf | hf)
      · exact unready ready
      · exact globals f hf
      · exact ports p hp f hf
      · exact overlaps f hf
      · exact levels f hf
  rw [armCheck_eq_none, noneFails]
  refine and_congr_right fun _ => ?_
  simp only [no_globalFails_iff, no_portFails_iff, no_levelFails_iff]
  constructor
  · rintro ⟨⟨size, div, interval, limit, host, normal, urgent⟩, ports, apart, levels⟩
    have sized (p : PortId) (hp : (s.sc.cfg.ports.get p).present = true) := (ports p hp).regionSize.1
    exact ⟨size, div, interval, limit, host, normal, urgent, ports, (no_overlapFails_iff sized).1 apart, levels⟩
  · intro legal
    exact ⟨⟨legal.sizeSelect, legal.tickDiv, legal.interval, legal.urgentLimit, legal.hostLevel, legal.refreshNormal,
      legal.refreshUrgent⟩, legal.ports,
      (no_overlapFails_iff fun p hp => (legal.ports p hp).regionSize.1).2 legal.regionsApart, legal.levelsApart⟩

end Sys2Proof.Proofs

/-! PROOFS. What every event keeps whatever the controller does: the queue of commands, the free values, canonical memory,
a sound Event Unit, sound ports and sound fairness states. -/

namespace Sys2Proof.Proofs

open Sys2Proof.Machine Sys2Proof.Safety Sys2Proof.Laws

/-! ### One relation for all of them -/

/-- `t` comes from `s` by operations that keep each of these. -/
def Carries (s t : State) : Prop :=
  t.pending = s.pending ∧ t.held = s.held ∧ s.freeIndex ≤ t.freeIndex ∧ (MemoryCanonical s → MemoryCanonical t) ∧
  (EventUnitSound s → EventUnitSound t) ∧ (PortsSound s → PortsSound t) ∧ (FairnessSound s → FairnessSound t)

namespace Carries

variable {s t u : State}

theorem pending (h : Carries s t) : t.pending = s.pending := h.1

theorem held (h : Carries s t) : t.held = s.held := h.2.1

theorem freeIndex (h : Carries s t) : s.freeIndex ≤ t.freeIndex := h.2.2.1

theorem memory (h : Carries s t) : MemoryCanonical s → MemoryCanonical t := h.2.2.2.1

theorem events (h : Carries s t) : EventUnitSound s → EventUnitSound t := h.2.2.2.2.1

theorem ports (h : Carries s t) : PortsSound s → PortsSound t := h.2.2.2.2.2.1

theorem fairness (h : Carries s t) : FairnessSound s → FairnessSound t := h.2.2.2.2.2.2

protected theorem refl (s : State) : Carries s s := ⟨rfl, rfl, le_rfl, id, id, id, id⟩

theorem trans (h : Carries s t) (k : Carries t u) : Carries s u :=
  ⟨k.pending.trans h.pending, k.held.trans h.held, h.freeIndex.trans k.freeIndex, k.memory ∘ h.memory,
    k.events ∘ h.events, k.ports ∘ h.ports, k.fairness ∘ h.fairness⟩

theorem branch {c : Prop} [Decidable c] {a b : State} (ha : c → Carries s a) (hb : ¬ c → Carries s b) :
    Carries s (if c then a else b) := by
  split
  next h => exact ha h
  next h => exact hb h

/-! ### Updates of one block -/

theorem updHp (f : HostPort → HostPort) (h : Carries s t) : Carries s (t.updHp f) :=
  h.trans ⟨rfl, rfl, le_rfl, id, id, id, id⟩

theorem updSeq (f : Sequencer → Sequencer) (h : Carries s t) : Carries s (t.updSeq f) := h.updHp _

theorem updWin (f : Window → Window) (h : Carries s t) : Carries s (t.updWin f) := h.updHp _

theorem updTb (f : Timebase → Timebase) (h : Carries s t) : Carries s (t.updTb f) :=
  h.trans ⟨rfl, rfl, le_rfl, id, id, id, id⟩

theorem updMc (f : MemCtl → MemCtl) (hf : t.mc.mem.wf = true → (f t.mc).mem.wf = true) (h : Carries s t) :
    Carries s (t.updMc f) := h.trans ⟨rfl, rfl, le_rfl, hf, id, id, id⟩

theorem updSc (f : Setup → Setup) (hf : (f t.sc).cfg.arbCtrl = t.sc.cfg.arbCtrl) (h : Carries s t) :
    Carries s (t.updSc f) :=
  h.trans ⟨rfl, rfl, le_rfl, id, id, id, fun hs =>
    ⟨fun hd => hs.1 (by simpa [Cfg.fairness, hf] using hd), hs.2⟩⟩

theorem countReads (n : Nat) (h : Carries s t) : Carries s (countReads n t) :=
  h.trans ⟨rfl, rfl, Nat.le_add_right _ _, id, id, id, id⟩

/-- An update of the Event Unit that keeps it sound. -/
theorem updEu (f : EventUnit → EventUnit) (hf : EventUnitSound t → EventUnitSound (t.updEu f)) (h : Carries s t) :
    Carries s (t.updEu f) := h.trans ⟨rfl, rfl, le_rfl, id, hf, id, id⟩

/-- Port p replaced: sound again, and CLOSED only if it was. -/
theorem withPort {p : PortId} {y : Port} (hy : PortSound (t.port p) → PortSound y)
    (hc : y.state = .closed → (t.port p).state = .closed) (h : Carries s t) : Carries s (withPort p y t) := by
  refine h.trans ⟨rfl, rfl, le_rfl, id, id, fun ht r => ?_, fun ht => ⟨ht.1, fun r hr => ?_⟩⟩
  · by_cases e : r = p
    · subst e
      rw [withPort_port_self]
      exact hy (ht r)
    · rw [withPort_port_ne _ _ e]
      exact ht r
  · by_cases e : r = p
    · subst e
      rw [withPort_port_self] at hr
      exact ht.2 r (hc hr)
    · rw [withPort_port_ne _ _ e] at hr
      exact ht.2 r hr

theorem updPort {p : PortId} {f : Port → Port} (hy : PortSound (t.port p) → PortSound (f (t.port p)))
    (hc : (f (t.port p)).state = .closed → (t.port p).state = .closed) (h : Carries s t) :
    Carries s (t.updPort p f) := h.withPort hy hc

/-- Every port replaced by one as sound, CLOSED only if it was. -/
theorem mapPorts {q : Quad Port} (hy : ∀ p, PortSound (t.port p) → PortSound (q.get p))
    (hc : ∀ p, (q.get p).state = .closed → (t.port p).state = .closed) (h : Carries s t) :
    Carries s { t with ports := q } :=
  h.trans ⟨rfl, rfl, le_rfl, id, id, fun ht p => hy p (ht p), fun ht => ⟨ht.1, fun p hp => ht.2 p (hc p hp)⟩⟩

/-- Fairness states replaced: OPEN where they were, or all of them while fairness is enabled and the port is open. -/
theorem updMa (f : Arbiter → Arbiter) (hf : FairnessSound t → FairnessSound (t.updMa f)) (h : Carries s t) :
    Carries s (t.updMa f) := h.trans ⟨rfl, rfl, le_rfl, id, id, id, hf⟩

end Carries

/-! ### The Event Unit (R146 to R149) -/

theorem gapless_append {q : List EvRecord} {n : Byte} (h : gapless q n = true) {r : EvRecord} (hr : r.seqNo = n) :
    gapless (q ++ [r]) (n + 1) = true := by
  induction q with
  | nil => simp [gapless, hr]
  | cons e t ih =>
    simp only [gapless, Bool.and_eq_true, beq_iff_eq] at h
    obtain ⟨he, ht⟩ := h
    simp only [List.cons_append, gapless, Bool.and_eq_true, beq_iff_eq, ih ht, and_true, List.length_append,
      List.length_singleton]
    rw [BitVec.ofNat_add, ← BitVec.add_assoc, he]
    rfl

/-- A record stored where there is room. -/
theorem storeRecord_sound {e : EventUnit} (r : Report) (stamp : Word) (hl : e.queue.length < 32)
    (hg : gapless e.queue e.seqNo = true) :
    (storeRecord r stamp e).queue.length ≤ 32 ∧ gapless (storeRecord r stamp e).queue (storeRecord r stamp e).seqNo = true := by
  refine ⟨?_, gapless_append hg rfl⟩
  simp [storeRecord]
  omega

theorem saturate_le (top n : Nat) (h : n ≤ top) : saturate top n ≤ top := by
  unfold saturate
  split <;> omega

theorem one_le_saturate {top : Nat} (h : 1 ≤ top) (n : Nat) : 1 ≤ saturate top n := by
  unfold saturate
  split <;> omega

theorem post_sound (r : Report) {s : State} (h : EventUnitSound s) : EventUnitSound (post r s) := by
  obtain ⟨hl, hg, hc, hlost, hnot, hthresh, hthresh', hage⟩ := h
  by_cases room : s.eu.queue.length < 32
  · have stored : (post r s).eu = storeRecord r s.tb.tickCount s.eu := if_pos room
    obtain ⟨hl', hg'⟩ := storeRecord_sound r s.tb.tickCount room hg
    simp only [EventUnitSound, stored]
    exact ⟨hl', hg', hc, fun lost => absurd (hlost lost).1 room.ne, hnot, hthresh, hthresh', hage⟩
  · have refused : (post r s).eu = refuseRecord s.eu := if_neg room
    simp only [EventUnitSound, refused, refuseRecord]
    exact ⟨hl, hg, saturate_le _ _ hc, fun _ => ⟨by omega, one_le_saturate (by norm_num) _⟩, nofun, hthresh, hthresh', hage⟩

theorem popEvent_sound {s : State} (h : EventUnitSound s) : EventUnitSound (popEvent s) := by
  obtain ⟨hl, hg, hc, hlost, hnot, hthresh, hthresh', hage⟩ := h
  cases hq : s.eu.queue with
  | nil =>
    rw [(popEvent_of_queue s).1 hq]
    exact ⟨hl, hg, hc, hlost, hnot, hthresh, hthresh', hage⟩
  | cons r rest =>
    rw [hq, List.length_cons] at hl hlost
    rw [hq, gapless, Bool.and_eq_true] at hg
    obtain ⟨-, hrest⟩ := hg
    rw [(popEvent_of_queue s).2 r rest hq]
    cases hx : s.eu.lost with
    | false =>
      simp only [EventUnitSound, State.updEu_eu, popped_of_not_lost _ _ _ hx, oldestMoved]
      exact ⟨by omega, hrest, hc, fun lost => absurd lost (by simp [hx]), hnot, hthresh, hthresh', hage⟩
    | true =>
      simp only [EventUnitSound, State.updEu_eu, popped_of_lost _ _ _ hx hc, oldestMoved, List.length_append,
        List.length_singleton]
      exact ⟨by omega, gapless_append hrest rfl, Nat.zero_le _, nofun, fun _ => trivial, hthresh, hthresh', hage⟩

theorem clampThresh_bounds (n : Nat) : 1 ≤ clampThresh n ∧ clampThresh n ≤ 32 := by
  unfold clampThresh
  split_ifs <;> omega

namespace Carries

variable {s t : State}

theorem post (r : Report) (h : Carries s t) : Carries s (post r t) := h.updEu _ (post_sound r)

theorem postAll (rs : List Report) (h : Carries s t) : Carries s (postAll rs t) := by
  induction rs generalizing t with
  | nil => exact h
  | cons r rs ih => exact ih (h.post r)

theorem setSummary (b : BitVec 8) (h : Carries s t) : Carries s (setSummary b t) := h.updEu _ id

theorem finish (r : Result) (q : Words4) (h : Carries s t) : Carries s (finish r q t) := (h.updSeq _).setSummary _

theorem endMemCommand (r : Result) (h : Carries s t) : Carries s (endMemCommand r t) := by
  unfold Machine.endMemCommand
  split
  · exact h.finish _ _
  · exact h

/-! ### Buffer memory -/

theorem writeMemory (a : Nat) (ws : List Word) (h : Carries s t) : Carries s (writeMemory a ws t) :=
  h.updMc _ (memWrite_wf a ws)

theorem orphanFlight (p : PortId) (h : Carries s t) : Carries s (orphanFlight p t) := h.updMc _ id

theorem discardLatch (h : Carries s t) : Carries s (discardLatch t) := (h.updWin _).updMc _ id

theorem issuePrecharge (h : Carries s t) : Carries s (issuePrecharge t) := h.updMc _ id

theorem endFlight (h : Carries s t) : Carries s (endFlight t) := by
  have freed : Carries s (t.updMc fun m => { m with flight := none }) := h.updMc _ id
  exact branch (fun _ => freed.issuePrecharge) fun _ => freed

theorem dropWindow (h : Carries s t) : Carries s (dropWindow t) := by
  have latched : Carries s (if t.hp.win.latch = .pending ∧ prefetchGranted t = false then
      t.updWin fun w => { w with latch := .empty } else t) := branch (fun _ => h.updWin _) fun _ => h
  exact branch (fun _ => (latched.updWin _).updWin _) fun _ => latched

/-! ### Fairness states -/

theorem openAll (h : Carries s t) : Carries s (openAll t) :=
  h.updMa _ fun _ => ⟨fun _ => ⟨rfl, fun p => by cases p <;> rfl⟩, fun p _ => by cases p <;> rfl⟩

/-- Making one port's fairness state OPEN, and the port what it may then be. -/
theorem openPort {p : PortId} {y : Port} (hy : PortSound (t.port p) → PortSound y) (h : Carries s t) :
    Carries s (openFairness p (Safety.withPort p y t)) := by
  refine h.trans ⟨rfl, rfl, le_rfl, id, id, fun ht r => ?_, fun ht => ⟨fun hd => ⟨(ht.1 hd).1, fun r => ?_⟩, fun r hr => ?_⟩⟩
  · by_cases e : r = p
    · subst e
      rw [openFairness_port, withPort_port_self]
      exact hy (ht r)
    · rw [openFairness_port, withPort_port_ne _ _ e]
      exact ht r
  · rw [openFairness_ma, Quad.get_set]
    split
    · rfl
    · exact (ht.1 hd).2 r
  · rw [openFairness_ma, Quad.get_set]
    split
    · rfl
    next e =>
      rw [openFairness_port, withPort_port_ne _ _ e] at hr
      exact ht.2 r hr

end Carries

/-! ### One port (R97, R98, R132, R137, R140) -/

theorem portSound_closed {x : Port} (h : PortSound x) : PortSound x.closed := by
  obtain ⟨-, hm, ho, hd, hf, -⟩ := h
  simp [PortSound, Port.closed, hm, ho, hd, hf]

theorem portSound_faulted {x : Port} (h : PortSound x) : PortSound x.faulted := by
  obtain ⟨-, hm, ho, hd, hf, -⟩ := h
  simp [PortSound, Port.faulted, Port.closed, hm, ho, hd, hf]

theorem portSound_opened : PortSound openedPort := by simp [PortSound, openedPort]

/-- A port with something queued is ACTIVE or CLOSING. -/
theorem portSound_working {x : Port} (h : PortSound x) (hq : x.queue ≠ []) :
    x.state = .active ∨ x.state = .closing := by
  obtain ⟨-, -, -, -, -, -, hempty, -⟩ := h
  cases hx : x.state <;> simp_all

/-- An ACTIVE or CLOSING port is sound by its bounds, and by its queue when ACTIVE. -/
theorem portSound_of_open {x : Port} (hx : x.state = .active ∨ x.state = .closing)
    (hbounds : x.queue.length ≤ 8 ∧ x.marks.length ≤ 16 ∧ x.overwrites ≤ 255 ∧ x.drop ≤ 65535 ∧ x.fill ≤ 65535)
    (hq : x.state = .active → x.queue ≠ []) : PortSound x := by
  obtain ⟨h1, h2, h3, h4, h5⟩ := hbounds
  rcases hx with hx | hx <;> simp_all [PortSound]

theorem portSound_enterIdle {x : Port} (hq : x.queue = [])
    (hbounds : x.marks.length ≤ 16 ∧ x.overwrites ≤ 255 ∧ x.drop ≤ 65535 ∧ x.fill ≤ 65535) : PortSound x.enterIdle := by
  simp [PortSound, Port.enterIdle, hq, hbounds]

theorem portSound_bounds {x : Port} (h : PortSound x) :
    x.queue.length ≤ 8 ∧ x.marks.length ≤ 16 ∧ x.overwrites ≤ 255 ∧ x.drop ≤ 65535 ∧ x.fill ≤ 65535 := by
  obtain ⟨h1, h2, h3, h4, h5, -⟩ := h
  exact ⟨h1, h2, h3, h4, h5⟩

theorem idleIfEmpty_closed {x : Port} (h : x.idleIfEmpty.state = .closed) : x.state = .closed := by
  unfold Port.idleIfEmpty at h
  split at h
  · cases h
  · exact h

/-- A port whose queue has changed: IDLE now, if it was ACTIVE and nothing is left. -/
theorem portSound_idleIfEmpty {x : Port} (hx : x.state = .active ∨ x.state = .closing)
    (hbounds : x.queue.length ≤ 8 ∧ x.marks.length ≤ 16 ∧ x.overwrites ≤ 255 ∧ x.drop ≤ 65535 ∧ x.fill ≤ 65535) :
    PortSound x.idleIfEmpty := by
  unfold Port.idleIfEmpty
  split
  next h => exact portSound_enterIdle h.2 hbounds.2
  next h => exact portSound_of_open hx hbounds fun ha hq => h ⟨ha, hq⟩

theorem portSound_doneWith (dir : Dir) (d : Desc) {x : Port} (h : PortSound x) (hq : x.queue ≠ []) :
    PortSound (Port.doneWith dir d x) := by
  have hx := portSound_working h hq
  obtain ⟨hl, hb⟩ := portSound_bounds h
  have hlen : x.queue.length ≠ 0 := by simpa using hq
  apply portSound_idleIfEmpty <;> split <;> split <;> simp [Port.dropHead, Port.append, hx, hb] <;> omega

theorem doneWith_closed {dir : Dir} {d : Desc} {x : Port} (h : (Port.doneWith dir d x).state = .closed) :
    x.state = .closed := by
  have same (copied stopped : Bool) : ((if copied then Port.append dir d else id)
      ((if stopped then fun y : Port => { y with xen := false } else id) x.dropHead)).state = x.state := by
    cases copied <;> cases stopped <;> rfl
  exact (same _ _).symm.trans (idleIfEmpty_closed h)

namespace Carries

variable {s t : State}

/-! ### The shared operations on a port -/

theorem doneHead (p : PortId) (d : Detail) (h : Carries s t) : Carries s (doneHead p d t) := by
  cases hq : (t.port p).queue with
  | nil => rwa [doneHead_nil d hq]
  | cons e r =>
    have queued : (t.port p).queue ≠ [] := by simp [hq]
    have reported : Carries s (if e.desc.notify || e.desc.stop then
        Machine.post ⟨.segDone, .port p, e.desc.tag, d, e.progress⟩ t else t) := branch (fun _ => h.post _) fun _ => h
    have same : (if e.desc.notify || e.desc.stop then
        Machine.post ⟨.segDone, .port p, e.desc.tag, d, e.progress⟩ t else t).port p = t.port p := by split <;> rfl
    rw [doneHead_eq d hq]
    have moved := reported.withPort (p := p) (y := Port.doneWith (t.pcfg p).dir e.desc (t.port p))
      (fun hx => portSound_doneWith _ _ (same ▸ hx) queued) (fun hx => same ▸ doneWith_closed hx)
    split
    · exact moved.setSummary _
    · exact moved

theorem endWork (p : PortId) (how : Ending) (h : Carries s t) : Carries s (endWork p how t) := by
  rw [endWork_eq_postAll]
  exact h.postAll _

theorem enterClosed (p : PortId) (d : Detail) (n : Nat) (h : Carries s t) : Carries s (enterClosed p d n t) :=
  (h.post ⟨.portClosed, .port p, 0, d, n⟩).openPort portSound_closed

theorem closeEnd (p : PortId) (h : Carries s t) : Carries s (closeEnd p t) := (h.endWork p _).enterClosed p _ _

theorem closeTest (p : PortId) (h : Carries s t) : Carries s (closeTest p t) :=
  branch (fun _ => h.closeEnd p) fun _ => h

theorem abandon (p : PortId) (h : Carries s t) : Carries s (abandon p t) :=
  ((h.endWork p _).orphanFlight p).enterClosed p _ _

theorem abortPort (p : PortId) (h : Carries s t) : Carries s (abortPort p t) := by
  unfold Machine.abortPort
  split
  · exact h
  · exact h.enterClosed p _ _
  all_goals exact (h.endWork p _).enterClosed p _ _

theorem fault (p : PortId) (cause : Detail) (h : Carries s t) : Carries s (fault p cause t) := by
  have emptied : Carries s (((Machine.orphanFlight p (Machine.endWork p endFault t))).updPort p Port.faulted) :=
    ((h.endWork p _).orphanFlight p).updPort portSound_faulted nofun
  exact branch (fun _ => (emptied.post _).setSummary _) fun _ => h

theorem startOverrun {p : PortId} (hx : (t.port p).state.working = true) (h : Carries s t) :
    Carries s (startOverrun p t) := by
  refine branch (fun _ => h) fun _ => (h.updPort ?_ id).post _
  rcases (working_iff _).1 hx with hx | hx <;> simp_all [PortSound]

theorem startUnderrun {p : PortId} (hx : (t.port p).state.working = true) (h : Carries s t) :
    Carries s (startUnderrun p t) := by
  refine branch (fun _ => h) fun _ => (h.updPort ?_ id).post _
  rcases (working_iff _).1 hx with hx | hx <;> simp_all [PortSound]

theorem beatSeen (p : PortId) (h : Carries s t) : Carries s (t.updPort p Port.beatSeen) := by
  refine h.updPort (fun hx => ?_) id
  simp_all [PortSound, Port.beatSeen]

end Carries

/-! ### Settling -/

theorem releaseStop_stopBlock (x : Port) :
    x.releaseStop.stopBlock = if x.stopBlock = .left ∧ x.xen = true then .clear else x.stopBlock := by
  unfold Port.releaseStop
  split <;> rfl

/-- A released port differs in its stop block only. -/
theorem releaseStop_eq (x : Port) : x.releaseStop = { x with stopBlock := x.releaseStop.stopBlock } := by
  unfold Port.releaseStop
  split <;> rfl

theorem settlePort_eq (k : PortCfg) (a : Bool) (x : Port) : settlePort k a x =
    { x with request := requestOf k a x.releaseStop, stopBlock := x.releaseStop.stopBlock } := by
  unfold settlePort
  rw [releaseStop_eq x]

theorem settlePort_state (k : PortCfg) (a : Bool) (x : Port) : (settlePort k a x).state = x.state := by
  rw [settlePort_eq]

/-- Only an ACTIVE or CLOSING port makes a request. -/
theorem requestOf_of_not_working {k : PortCfg} {a : Bool} {x : Port} (h : x.state = .closed ∨ x.state = .faulted) :
    requestOf k a x = none := by
  unfold requestOf captureRequest replayRequest
  cases a
  · cases k.dir
    · cases x.queue <;> rcases h with h | h <;> simp [h]
    · cases x.fetched <;> rcases h with h | h <;> simp [h]
  · rfl

theorem portSound_settlePort (k : PortCfg) (a : Bool) {x : Port} (h : PortSound x) : PortSound (settlePort k a x) := by
  obtain ⟨h1, h2, h3, h4, h5, hact, hempty, hcl, hst, hid⟩ := h
  rw [settlePort_eq]
  refine ⟨h1, h2, h3, h4, h5, hact, hempty, fun hx => ?_, fun hx => ?_, hid⟩
  · obtain ⟨hxen, -, hrest⟩ := hcl hx
    exact ⟨hxen, requestOf_of_not_working (by rwa [releaseStop_state]), hrest⟩
  · simp [releaseStop_stopBlock, hst hx]

theorem eventUnitSound_reset : EventUnitSound State.reset := by decide

theorem portSound_reset : PortSound {} := by simp [PortSound]

/-! ### The capture steps of a port (R103, R106) -/

/-- The words of a burst change the mark log and its overwrite count only. -/
theorem logMarks_frame (tag : Byte) (index addr : Nat) (ws : List FifoWord) (x : Port) :
    ∃ m o, x.logMarks tag index addr ws = { x with marks := m, overwrites := o } := by
  induction ws generalizing index addr x with
  | nil => exact ⟨_, _, rfl⟩
  | cons w ws ih =>
    obtain ⟨m, o, h⟩ := ih (index + 1) (addr + 1) (if w.mark then x.logMark ⟨tag, index, addr⟩ else x)
    refine ⟨m, o, h.trans ?_⟩
    unfold Port.logMark
    split
    · split <;> rfl
    · rfl

theorem advance_eq {x : Port} {h : QEntry} {t : List QEntry} (n : Nat) (hq : x.queue = h :: t) :
    x.advance n = { x with queue := { h with progress := h.progress + n } :: t } := by simp only [Port.advance, hq]

theorem advance_length (n : Nat) (x : Port) : (x.advance n).queue.length = x.queue.length := by
  unfold Port.advance
  cases x.queue <;> rfl

/-- The head's progress rises and the burst's MARK words are logged. -/
theorem portSound_captured (n : Nat) (tag : Byte) (index addr : Nat) (ws : List FifoWord) {x : Port} (h : PortSound x)
    (hq : x.queue ≠ []) : PortSound ((x.advance n).logMarks tag index addr ws) := by
  obtain ⟨hl, hm, ho, hd, hf⟩ := portSound_bounds h
  have hlen := advance_length n x
  have hw := portSound_working h hq
  rw [logMarks_eq_logged (x := x.advance n) _ _ _ _ hm ho]
  refine portSound_of_open hw ⟨hlen.trans_le hl, newest_length_le _, Nat.min_le_left _ _, hd, hf⟩
    fun _ hnil => hq (List.length_eq_zero_iff.1 (hlen.symm.trans (List.length_eq_zero_iff.2 hnil)))

theorem captured_state (n : Nat) (tag : Byte) (index addr : Nat) (ws : List FifoWord) (x : Port) :
    ((x.advance n).logMarks tag index addr ws).state = x.state := by
  obtain ⟨m, o, h⟩ := logMarks_frame tag index addr ws (x.advance n)
  rw [h]
  rfl

namespace Carries

variable {s t : State}

theorem settlePorts (h : Carries s t) : Carries s (settlePorts t) := by
  refine h.mapPorts (fun p hp => ?_) fun p hp => ?_
  · rw [Quad.get_map]
    exact portSound_settlePort _ _ hp
  · rwa [Quad.get_map, settlePort_state] at hp

theorem settle (h : Carries s t) : Carries s (settle t) :=
  h.settlePorts.trans ⟨rfl, rfl, le_rfl, id, id, id, id⟩

/-! ### The end of a completion (R70, R133, R178) -/

theorem hold {r : Requester} (hf : t.sc.cfg.fairness = true) (hr : closedRequester t r = false) (h : Carries s t) :
    Carries s (hold r t) := by
  have enabled : t.sc.cfg.fairness ≠ false := by simp [hf]
  cases r with
  | refresh => exact h
  | controller => exact h
  | host => exact h.updMa (fun a => { a with host := .held }) fun ht => ⟨fun hd => absurd hd enabled, ht.2⟩
  | port p =>
    refine h.updMa (fun a => { a with ports := a.ports.set p .held }) fun ht =>
      ⟨fun hd => absurd hd enabled, fun r hr' => ?_⟩
    rw [State.updMa_ma, Quad.get_set]
    split
    next e =>
      subst e
      simp [closedRequester, show (t.port r).state = .closed from hr'] at hr
    · exact ht.2 r hr'

theorem fairnessUpdate (h : Carries s t) : Carries s (fairnessUpdate t) := by
  unfold Machine.fairnessUpdate
  split
  · split
    next hc =>
      simp only [Bool.and_eq_true, Bool.not_eq_true'] at hc
      obtain ⟨⟨⟨-, hf⟩, -⟩, hr⟩ := hc
      exact h.hold hf hr
    · exact h
  · exact h

theorem closeGrant (h : Carries s t) : Carries s (closeGrant t) := h.settlePorts.fairnessUpdate.updMa _ id

theorem softReset (h : Carries s t) : Carries s (softReset t) := by
  refine h.trans ⟨rfl, rfl, le_rfl, id, fun _ => eventUnitSound_reset, fun _ p => ?_,
    fun _ => ⟨fun _ => ⟨rfl, fun p => ?_⟩, fun p _ => ?_⟩⟩
  · cases p <;> exact portSound_reset
  · cases p <;> rfl
  · cases p <;> rfl

theorem deferredReset (h : Carries s t) : Carries s (deferredReset t) := branch (fun _ => h.softReset) fun _ => h

theorem afterCompletion (r : Requester) (h : Carries s t) : Carries s (afterCompletion r t) := by
  unfold Machine.afterCompletion
  split
  · exact ((h.abortPort _).closeGrant.finish _ _).deferredReset
  · exact h.closeGrant.deferredReset

/-! ### Completions -/

theorem captureSteps (p : PortId) (f : Flight) (h : Carries s t) : Carries s (captureSteps p f t) := by
  unfold Machine.captureSteps
  split
  · exact h.closeTest p
  next e r hq =>
    have advanced : Carries s (t.updPort p fun x => (x.advance f.count).logMarks e.desc.tag e.progress f.addr f.words) :=
      h.updPort (fun hx => portSound_captured _ _ _ _ _ hx (by simp [hq])) fun hx => (captured_state _ _ _ _ _ _).symm.trans hx
    refine Carries.closeTest p ?_
    cases guardPassed e f.count with
    | none =>
      exact branch (fun _ => advanced.doneHead p _) fun _ => branch (fun _ => advanced.doneHead p _) fun _ => advanced
    | some g =>
      exact branch (fun _ => (advanced.post _).doneHead p _) fun _ =>
        branch (fun _ => (advanced.post _).doneHead p _) fun _ => advanced.post _

theorem captureCompletion (f : Flight) (h : Carries s t) : Carries s (captureCompletion f t) := by
  unfold Machine.captureCompletion
  split
  next p _ => exact branch (fun _ => h.writeMemory _ _) fun _ => (h.writeMemory _ _).captureSteps p f
  all_goals exact h

theorem parityPolicy (p : PortId) (tag : Byte) (bad : Nat) (h : Carries s t) : Carries s (parityPolicy p tag bad t) :=
  branch (fun _ => h) fun _ => branch (fun _ => (h.post _).fault p _) fun _ => h.post _

theorem replayCompletion (f : Flight) (h : Carries s t) : Carries s (replayCompletion f t) := by
  unfold Machine.replayCompletion
  split
  next p _ =>
    exact branch (fun _ => (h.countReads _).updPort id id) fun _ =>
      (((h.countReads _).updPort id id).parityPolicy p _ _).closeTest p
  all_goals exact h

theorem wordReadCompletion (f : Flight) (h : Carries s t) : Carries s (wordReadCompletion f t) :=
  branch (fun _ => h.countReads 1) fun _ =>
    branch (fun _ => ((h.countReads 1).updWin _).updWin _) fun _ => (h.countReads 1).updWin _

theorem wordWriteCompletion (f : Flight) (h : Carries s t) : Carries s (wordWriteCompletion f t) :=
  (h.writeMemory _ _).updWin _

theorem refreshCompletion (f : Flight) (h : Carries s t) : Carries s (refreshCompletion f t) :=
  branch (fun _ => h.updMc _ id) fun _ => h

theorem chunkEnd (h : Carries s t) : Carries s (chunkEnd t) := by
  unfold Machine.chunkEnd
  split
  · exact branch (fun _ => h.endMemCommand _) fun _ => branch (fun _ => h.endMemCommand _) fun _ =>
      branch (fun _ => h.endMemCommand _) fun _ => h
  · exact h

theorem fillCompletion (f : Flight) (h : Carries s t) : Carries s (fillCompletion f t) := by
  unfold Machine.fillCompletion
  split
  · exact ((h.writeMemory _ _).updSeq _).chunkEnd
  all_goals exact h.writeMemory _ _

theorem crcCompletion (f : Flight) (h : Carries s t) : Carries s (crcCompletion f t) := by
  unfold Machine.crcCompletion
  split
  · exact ((h.countReads _).updSeq _).chunkEnd
  all_goals exact h.countReads _

theorem processed {u : State} {f : Flight} (hp : Processed f t u) (h : Carries s t) : Carries s u := by
  rcases hp with ⟨-, rfl⟩ | ⟨-, rfl⟩ | ⟨-, rfl⟩ | ⟨-, rfl⟩ | ⟨-, rfl⟩ | ⟨-, rfl⟩ | ⟨-, rfl⟩
  · exact h.captureCompletion f
  · exact h.replayCompletion f
  · exact h.wordReadCompletion f
  · exact h.wordWriteCompletion f
  · exact h.refreshCompletion f
  · exact h.fillCompletion f
  · exact h.crcCompletion f

theorem memReady (n : Nat) (h : Carries s t) : Carries s (memReady n t) := ((h.updMc _ id).post _).setSummary _

theorem initStep (h : Carries s t) : Carries s (initStep t) := by
  unfold Machine.initStep
  split
  · exact branch (fun _ => h.updMc _ id) fun _ => h.memReady _
  all_goals exact h

end Carries

/-! ### Ticks (R50, R93) -/

theorem idleRuns_open {k : PortCfg} {x : Port} (h : idleRuns k x = true) : x.state = .active ∨ x.state = .closing := by
  simp only [idleRuns, Bool.and_eq_true, Bool.or_eq_true, beq_iff_eq] at h
  exact h.1.1

/-- The idle count and the idle-declared flag of an ACTIVE or CLOSING port may be anything. -/
theorem portSound_idle {x : Port} (hx : x.state = .active ∨ x.state = .closing) (n : Nat) (b : Bool) (h : PortSound x) :
    PortSound { x with idleCount := n, idleDeclared := b } := by
  rcases hx with hx | hx <;> simp_all [PortSound]

namespace Carries

variable {s t : State}

theorem owedRise (h : Carries s t) : Carries s (owedRise t) := by
  have lost : Carries s (t.updMc fun m => { m with memSuspect := true, lossEpisode := true, mem := [] }) :=
    h.updMc _ fun _ => rfl
  exact branch (fun _ => h.updMc _ id) fun _ => branch (fun _ => lost) fun _ => (lost.post _).setSummary _

theorem riseAtInterval (h : Carries s t) : Carries s (riseAtInterval t) := (h.updMc _ id).owedRise

theorem tickRefresh (h : Carries s t) : Carries s (tickRefresh t) :=
  branch (fun _ => branch (fun _ => h.riseAtInterval) fun _ => h.updMc _ id) fun _ => h

theorem declareIdle {p : PortId} (hx : (t.port p).state = .active ∨ (t.port p).state = .closing) (h : Carries s t) :
    Carries s (declareIdle p t) := by
  have declared : Carries s (t.updPort p fun y => { y with idleCount := y.idleCount + 1, idleDeclared := true }) :=
    h.updPort (portSound_idle hx _ _) id
  exact branch (fun _ => (declared.post _).abandon p) fun _ => declared.post _

theorem tickLinkIdle (p : PortId) (h : Carries s t) : Carries s (tickLinkIdle p t) := by
  refine branch (fun hr => ?_) fun _ => branch (fun hr => ?_) fun _ => h
  · simp only [idleReached, Bool.and_eq_true] at hr
    exact h.declareIdle (idleRuns_open hr.1)
  · exact h.updPort (fun hx => portSound_idle (idleRuns_open hr) _ _ hx) id

theorem tickSteps (h : Carries s t) : Carries s (tickSteps t) :=
  ((((h.updTb _).tickRefresh.tickLinkIdle _).tickLinkIdle _).tickLinkIdle _).tickLinkIdle _

end Carries

/-! ### What a grant and a port's command make of a sound port -/

theorem queue_ne_nil_of_fetched {x : Port} {c : Cursor} {e : QEntry} (h : x.fetched = some (c, e)) : x.queue ≠ [] := by
  unfold Port.fetched at h
  split at h
  next cur _ =>
    split at h
    next he => exact List.ne_nil_of_mem (List.mem_of_getElem? he)
    · cases h
  · cases h

theorem portSound_fetchGranted {x : Port} {cur : Cursor} {e : QEntry} (n : Nat) (hf : x.fetched = some (cur, e))
    (h : PortSound x) : PortSound (Port.fetchGranted cur e n x) := by
  have hq := queue_ne_nil_of_fetched hf
  obtain ⟨hl, hb⟩ := portSound_bounds h
  have hw := portSound_working h hq
  refine portSound_of_open hw ⟨?_, hb⟩ fun _ => ?_
  · simpa [Port.fetchGranted] using hl
  · simpa [Port.fetchGranted] using hq

theorem portSound_enterClosing {x : Port} (h : PortSound x) : PortSound x.enterClosing := by
  have hb := portSound_bounds h
  exact portSound_of_open (.inr rfl) hb nofun

theorem activate_state {x : Port} (h : x.state = .idle ∨ x.state = .active) : x.activate.state = .active := by
  unfold Port.activate
  split
  · rfl
  · tauto

/-- SEG_POST's descriptor joins the queue of an IDLE or ACTIVE port (R99). -/
theorem portSound_posted (dir : Dir) (d : Desc) {x : Port} (hx : x.state = .idle ∨ x.state = .active)
    (hl : x.queue.length < 8) (h : PortSound x) : PortSound (x.append dir d).activate := by
  obtain ⟨-, hb⟩ := portSound_bounds h
  have hq : (x.append dir d).activate.queue = x.queue ++ [{ desc := d }] := by
    unfold Port.activate
    split <;> rfl
  have hrest : (x.append dir d).activate.marks = x.marks ∧ (x.append dir d).activate.overwrites = x.overwrites ∧
      (x.append dir d).activate.drop = x.drop ∧ (x.append dir d).activate.fill = x.fill := by
    unfold Port.activate
    split <;> exact ⟨rfl, rfl, rfl, rfl⟩
  obtain ⟨e1, e2, e3, e4⟩ := hrest
  refine portSound_of_open (.inl (activate_state hx)) ⟨?_, ?_⟩ fun _ => ?_
  · rw [hq, List.length_append, List.length_singleton]
    omega
  · rwa [e1, e2, e3, e4]
  · simp [hq]

theorem flushSplit_nil (dir : Dir) : flushSplit dir [] = ([], []) := by cases dir <;> rfl

theorem flushSplit_length_le (dir : Dir) (q : List QEntry) : (flushSplit dir q).1.length ≤ q.length := by
  cases dir
  · simp [flushSplit]
  · exact List.length_filter_le _ _

theorem fetched_of_queue_nil {x : Port} (h : x.queue = []) : x.fetched = none := by
  unfold Port.fetched
  rw [h]
  cases x.fetch <;> rfl

/-- A flush of an empty queue leaves a sound port as it is. -/
theorem flushed_of_queue_nil (dir : Dir) {x : Port} (h : PortSound x) (hq : x.queue = []) : Port.flushed dir x = x := by
  obtain ⟨-, -, -, -, -, hact, -⟩ := h
  have hfetch : x.flushedFetch dir = x.fetch := by
    unfold Port.flushedFetch
    rw [fetched_of_queue_nil hq]
    cases dir <;> rfl
  have same : { x with queue := (flushSplit dir x.queue).1, fetch := x.flushedFetch dir } = x := by
    rw [hfetch, hq, flushSplit_nil, ← hq]
  unfold Port.flushed
  rw [same, Port.idleIfEmpty, if_neg fun ⟨ha, _⟩ => hact ha hq]

theorem portSound_flushed (dir : Dir) {x : Port} (h : PortSound x) : PortSound (Port.flushed dir x) := by
  by_cases hq : x.queue = []
  · rwa [flushed_of_queue_nil dir h hq]
  · obtain ⟨hl, hb⟩ := portSound_bounds h
    have hw := portSound_working h hq
    exact portSound_idleIfEmpty hw ⟨(flushSplit_length_le dir x.queue).trans hl, hb⟩

/-- A port command that passes the common checks finds the port PRESENT and in a state of R124's table. -/
theorem admitted_of_commonCheck {s : State} {c : Cmd} {code : Byte} {p : PortId} {states : List PState}
    (hc : cmdOf code = some c) (hl : portTable.lookup code = some states) (h : commonCheck s c p = none) :
    (s.pcfg p).present = true ∧ deviceRefusal s code = none ∧ (s.port p).state ∈ states :=
  port_of_refusal_none (commonCheck_eq_refusal s p hc ▸ h) hl

namespace Carries

variable {s t : State}

/-! ### The end of an instant (R56, R62 to R69) -/

theorem enterSleep (h : Carries s t) : Carries s (enterSleep t) :=
  ((((h.updMc _ id).dropWindow.updMc _ id).updSc _ rfl).finish _ _)

theorem release (h : Carries s t) : Carries s (release t) := branch (fun _ => h.openAll) fun _ => h

theorem begin (c : Candidate) (f : Flight) (h : Carries s t) : Carries s (begin c f t) := (h.updMc _ id).updMa _ id

theorem grantCapture (c : Candidate) (p : PortId) (h : Carries s t) : Carries s (grantCapture c p t) := by
  unfold Machine.grantCapture
  dsimp only
  split
  · exact h
  · exact (h.updPort id id).begin _ _

theorem grantReplay (c : Candidate) (p : PortId) (h : Carries s t) : Carries s (grantReplay c p t) := by
  unfold Machine.grantReplay
  dsimp only
  split
  · exact h
  next hf => exact (h.updPort (portSound_fetchGranted _ hf) id).begin _ _

theorem grantHost (c : Candidate) (h : Carries s t) : Carries s (grantHost c t) := by
  unfold Machine.grantHost
  split
  · exact h.begin _ _
  · exact h

theorem grant (c : Candidate) (h : Carries s t) : Carries s (grant c t) := by
  unfold Machine.grant
  split
  · exact h.begin _ _
  · exact h.grantHost _
  · split
    · exact h.grantCapture _ _
    · exact h.grantReplay _ _
  · exact h

theorem arbitrate (h : Carries s t) : Carries s (arbitrate t) := by
  refine branch (fun _ => ?_) fun _ => h
  dsimp only
  split
  · exact h.settlePorts.release.grant _
  · exact h.settlePorts.release

/-! ### Links (Chapter 5) -/

theorem heldOffer (p : PortId) (h : Carries s t) : Carries s (heldOffer p t) := by
  unfold Machine.heldOffer
  dsimp only
  split
  · refine branch (fun hc => h.startOverrun ?_) fun _ => h
    simp only [Bool.and_eq_true] at hc
    exact hc.1.1
  · refine branch (fun hc => h.startUnderrun ?_) fun _ => h
    simp only [Bool.and_eq_true, beq_iff_eq] at hc
    rw [hc.1.1]
    rfl

theorem accept {p : PortId} (w : Word) (m : Bool) (h : Carries s t) : Carries s (t.updPort p (Port.accept w m)) := by
  refine h.updPort (fun hx => ?_) id
  simp_all [PortSound, Port.accept, Port.beatSeen]

theorem dropBeat {p : PortId} (hx : (t.port p).state.working = true) (h : Carries s t) : Carries s (dropBeat p t) := by
  have counted : Carries s (t.updPort p fun x => { x with drop := saturate 65535 x.drop }) := by
    refine h.updPort (fun hp => ?_) id
    have := saturate_le 65535 (t.port p).drop
    simp_all [PortSound]
  exact (counted.startOverrun (by simpa using hx)).beatSeen p

theorem filler {p : PortId} (hx : (t.port p).state.working = true) (h : Carries s t) : Carries s (filler p t) := by
  have counted : Carries s (t.updPort p fun x => { x with fill := saturate 65535 x.fill }) := by
    refine h.updPort (fun hp => ?_) id
    have := saturate_le 65535 (t.port p).fill
    simp_all [PortSound]
  exact (counted.startUnderrun (by simpa using hx)).beatSeen p

theorem captureBeat (p : PortId) (w : Word) (m : Bool) (h : Carries s t) : Carries s (captureBeat p w m t) := by
  refine branch (fun _ => h) fun _ => branch (fun _ => h.heldOffer p) fun hr => branch (fun _ => h.accept w m) fun _ =>
    branch (fun _ => h.dropBeat ?_) fun _ => h.fault p _
  simp only [readyPin, Bool.not_eq_false, Bool.and_eq_true] at hr
  exact hr.1

theorem advanceHead (p : PortId) (n : Nat) (h : Carries s t) : Carries s (t.updPort p (Port.advance n)) := by
  refine h.updPort (fun hx => ?_) id
  cases hq : (t.port p).queue with
  | nil =>
    have same : (t.port p).advance n = { t.port p with queue := [] } := by simp only [Port.advance, hq]
    rwa [same, ← hq]
  | cons e r =>
    obtain ⟨hl, hb⟩ := portSound_bounds hx
    have hw := portSound_working hx (by simp [hq])
    rw [advance_eq n hq]
    exact portSound_of_open hw ⟨by simpa [hq] using hl, hb⟩ fun _ => by simp

theorem emitSteps (p : PortId) (e : FifoWord) (h : Carries s t) : Carries s (emitSteps p e t) := by
  unfold Machine.emitSteps
  split
  next a r b _ _ =>
    have told : Carries s (if guardHit a b then postPort p .guard a.desc.tag .noDetail b.index (t.updPort p (Port.advance 1))
        else t.updPort p (Port.advance 1)) := branch (fun _ => (h.advanceHead p 1).post _) fun _ => h.advanceHead p 1
    exact branch (fun _ => told.doneHead p _) fun _ => told
  · exact h

theorem emit (p : PortId) (e : FifoWord) (h : Carries s t) : Carries s (emit p e t) := by
  have popped : Carries s (t.updPort p fun x => { x with fifo := x.fifo.tail }) := h.updPort id id
  refine Carries.closeTest p ((popped.emitSteps p e).updPort (fun hx => ?_) id)
  simp_all [PortSound, Port.beatSeen]

theorem replayBeat (p : PortId) (h : Carries s t) : Carries s (replayBeat p t) := by
  refine branch (fun _ => h) fun _ => branch (fun _ => h.heldOffer p) fun hv => ?_
  split
  · exact h.emit p _
  next hf =>
    refine h.filler ?_
    cases hx : (t.port p).state <;> simp_all [replayPins, PState.working]

/-! ### Commands (Chapter 9) -/

theorem cmdPortOpen (p : PortId) (h : Carries s t) : Carries s (cmdPortOpen p t) :=
  (h.openPort (p := p) fun _ => portSound_opened).finish _ _

theorem closeNow (p : PortId) (h : Carries s t) : Carries s (closeNow p t) :=
  branch (fun _ => h.closeEnd p) fun _ => branch (fun _ => h.abandon p) fun _ => h

theorem cmdPortClose (p : PortId) (h : Carries s t) : Carries s (cmdPortClose p t) :=
  (branch (fun _ => h.enterClosed p _ _) fun _ => (h.updPort portSound_enterClosing nofun).closeNow p).finish _ _

theorem cmdPortAbort (p : PortId) (h : Carries s t) : Carries s (cmdPortAbort p t) :=
  branch (fun _ => h.updSeq _) fun _ => (h.abortPort p).finish _ _

theorem cmdSegPost {p : PortId} (hx : (t.port p).state = .idle ∨ (t.port p).state = .active) (h : Carries s t) :
    Carries s (cmdSegPost p t) := by
  refine branch (fun _ => h.finish _ _) fun _ => branch (fun _ => h.finish _ _) fun _ => branch (fun _ => h.finish _ _) fun hl => ?_
  refine (h.updPort (portSound_posted _ _ hx (not_le.1 hl)) fun hc => ?_).finish _ _
  have ha : ((t.port p).append (t.pcfg p).dir (segPostDesc t.hp.seq.latched.args)).activate.state = .active :=
    activate_state hx
  rw [ha] at hc
  cases hc

theorem cmdSegFlush (p : PortId) (h : Carries s t) : Carries s (cmdSegFlush p t) := by
  have cancelled : Carries s (cancelAll p .flush (flushSplit (t.pcfg p).dir (t.port p).queue).2 t) := by
    rw [cancelAll_eq_postAll]
    exact h.postAll _
  exact (cancelled.updPort (portSound_flushed _) idleIfEmpty_closed).finish _ _

theorem cmdMarkRead (p : PortId) (h : Carries s t) : Carries s (cmdMarkRead p t) := by
  refine branch (fun _ => h.finish _ _) fun _ => ?_
  split
  · exact h.finish _ _
  next m rest hm =>
    refine (h.updPort (fun hx => ?_) id).finish _ _
    simp only [PortSound, hm, List.length_cons] at hx ⊢
    obtain ⟨h1, h2, -, hrest⟩ := hx
    exact ⟨h1, by omega, Nat.zero_le _, hrest⟩

theorem clearXen (h : Carries s t) : Carries s (clearXen t) := by
  refine h.mapPorts (fun p hx => ?_) fun p hx => ?_
  · rw [Quad.get_map]
    simp_all [PortSound]
  · rwa [Quad.get_map] at hx

theorem cmdArm (h : Carries s t) : Carries s (cmdArm t) := by
  unfold Machine.cmdArm
  split
  · exact h.finish _ _
  · exact (h.updSc (fun c => { c with device := .armed }) rfl).clearXen.openAll.finish _ _

theorem cmdDisarm (h : Carries s t) : Carries s (cmdDisarm t) :=
  branch (fun _ => (h.updSc (fun c => { c with device := .setup }) rfl).openAll.finish _ _) fun _ => h.finish _ _

theorem cmdDoze (h : Carries s t) : Carries s (cmdDoze t) :=
  branch (fun _ => (h.updSeq _).updMc _ id) fun _ => h.finish _ _

theorem cmdWake (h : Carries s t) : Carries s (cmdWake t) :=
  ((h.updMc (fun m => { m with state := .ready, owed := 0, intervalCount := 0 }) id).updSc
    (fun c => { c with device := .armed }) rfl).finish _ _

theorem cmdMemFill (h : Carries s t) : Carries s (cmdMemFill t) :=
  branch (fun _ => h.finish _ _) fun _ => branch (fun _ => h.finish _ _) fun _ => (h.updSeq _).discardLatch

theorem cmdRegionCrc (h : Carries s t) : Carries s (cmdRegionCrc t) :=
  branch (fun _ => h.finish _ _) fun _ => (h.updSeq _).discardLatch

theorem cmdEffect {c : Cmd} {p : PortId} (hc : commonCheck t c p = none) (h : Carries s t) :
    Carries s (cmdEffect c p t) := by
  cases c with
  | nop => exact h.finish _ _
  | arm => exact h.cmdArm
  | disarm => exact h.cmdDisarm
  | doze => exact h.cmdDoze
  | wake => exact h.cmdWake
  | portOpen => exact h.cmdPortOpen p
  | portClose => exact h.cmdPortClose p
  | portAbort => exact h.cmdPortAbort p
  | segPost =>
    obtain ⟨-, -, hx⟩ := admitted_of_commonCheck (code := 0x30) rfl rfl hc
    exact h.cmdSegPost (by simpa using hx)
  | segFlush => exact h.cmdSegFlush p
  | queueStatus => exact h.finish _ _
  | markRead => exact h.cmdMarkRead p
  | memFill => exact h.cmdMemFill
  | regionCrc => exact h.cmdRegionCrc

theorem runLatched (h : Carries s t) : Carries s (runLatched t) := by
  unfold Machine.runLatched
  dsimp only
  split
  · exact h.finish _ _
  · split
    · exact h.finish _ _
    next hc => exact h.cmdEffect hc

theorem writeCmd (w : Word) (h : Carries s t) : Carries s (writeCmd w t) :=
  branch (fun _ => h.updSeq _) fun _ => (h.updSeq _).runLatched

/-! ### Registers (Chapter 1) -/

theorem requestSoftReset (h : Carries s t) : Carries s (requestSoftReset t) :=
  branch (fun _ => h) fun _ => branch (fun _ => h.updSc _ rfl) fun _ => h.softReset

theorem requestCancel (h : Carries s t) : Carries s (requestCancel t) := by
  unfold Machine.requestCancel
  split
  iterate 2
    exact branch (fun _ => h) fun _ => branch (fun _ => h.updSeq _) fun _ => (h.updSeq _).endMemCommand _
  all_goals exact h

theorem writeDevCtrl (w : Word) (h : Carries s t) : Carries s (writeDevCtrl w t) :=
  branch (fun _ => h.requestSoftReset) fun _ => branch (fun _ => h.requestCancel) fun _ => h

theorem writeXenSet (w : Word) (h : Carries s t) : Carries s (writeXenSet w t) := by
  refine h.mapPorts (fun p hx => ?_) fun p hx => ?_ <;> rw [Quad.get_map] at *
  · split
    next hc =>
      rw [Bool.and_eq_true, State.get_ports, working_iff] at hc
      rcases hc.2 with hw | hw <;> simp_all [PortSound]
    · exact hx
  · split at hx <;> exact hx

theorem writeXenClr (w : Word) (h : Carries s t) : Carries s (writeXenClr w t) := by
  refine h.mapPorts (fun p hx => ?_) fun p hx => ?_ <;> rw [Quad.get_map] at *
  · split
    · simp_all [PortSound]
    · exact hx
  · split at hx <;> exact hx

theorem setWinError (b : BitVec 7) (h : Carries s t) : Carries s (setWinError b t) := h.updWin _

theorem writeWinAddrHi (w : Word) (h : Carries s t) : Carries s (writeWinAddrHi w t) := by
  unfold Machine.writeWinAddrHi
  dsimp only
  split
  · exact (h.updWin _).discardLatch.setWinError _
  · exact (h.updWin _).discardLatch.updWin _

theorem writeWinData (w : Word) (h : Carries s t) : Carries s (writeWinData w t) := by
  unfold Machine.writeWinData
  split
  · exact h.setWinError _
  · exact (h.updWin _).discardLatch

theorem readWinData (h : Carries s t) : Carries s (readWinData t) := by
  unfold Machine.readWinData
  split
  · dsimp only
    split
    · exact h.updWin _
    · exact (h.updWin _).updWin _
  all_goals exact h.setWinError _

theorem startInit (h : Carries s t) : Carries s (startInit t) := by
  unfold Machine.startInit
  split
  · exact h
  · exact h
  · exact (h.updMc _ id).issuePrecharge
  · have ended (u : State) (hu : Carries s u) :
        Carries s (if memCommandRunning t && !chunkGranted t then Machine.endMemCommand .notAwake u else u) :=
      branch (fun _ => hu.endMemCommand _) fun _ => hu
    have dropped := (h.updMc (fun m =>
      { m with state := .init, owed := 0, intervalCount := 0, lossEpisode := false }) id).dropWindow
    exact branch (fun _ => (ended _ dropped).updMc _ id) fun _ => (ended _ dropped).issuePrecharge

end Carries

/-! ### A configuration write (R18, R73) -/

theorem store_arbCtrl (c : Cfg) {i : Nat} (h : i ≠ 4) (w : Word) : (c.store i w).arbCtrl = c.arbCtrl := by
  unfold Cfg.store
  split
  iterate 4 rfl
  · exact absurd rfl h
  · split
    · rfl
    · split <;> rfl

theorem store_four (c : Cfg) (w : Word) : c.store 4 w = { c with arbCtrl := w } := rfl

theorem fairnessSound_openAll (s : State) : FairnessSound (openAll s) :=
  ⟨fun _ => ⟨rfl, fun p => by cases p <;> rfl⟩, fun p _ => by cases p <;> rfl⟩

/-- The state in which an accepted configuration write acts: CFG_LOCKED clear, the word stored. -/
def cfgStored (w : Word) (s : State) : State :=
  (s.updHp fun h => { h with cfgLocked := false }).updSc fun c => { c with cfg := c.cfg.store s.hp.cfgIndex.toNat w }

theorem writeCfgData_eq (w : Word) (s : State) : writeCfgData w s =
    if cfgWriteRefused s then s.updHp fun h => { h with cfgLocked := true } else cfgWriteActs w (cfgStored w s) := rfl

/-- What an accepted write also does, by the word written. -/
theorem cfgWriteActs_eq (w : Word) (s : State) : cfgWriteActs w s =
    if s.hp.cfgIndex.toNat = 1 then (if flag w 0 then startInit s else s)
    else if s.hp.cfgIndex.toNat = 3 then s.updTb fun t => { t with divider := 0 }
    else if s.hp.cfgIndex.toNat = 4 then (if flag w 15 then s else openAll s)
    else s := by
  unfold cfgWriteActs
  split <;> simp_all

namespace Carries

variable {s t : State}

/-- A write that disables fairness makes every fairness state OPEN in the same event. -/
theorem arbCtrlWritten (w : Word) (hi : t.hp.cfgIndex.toNat = 4) (h : Carries s t) :
    Carries s (if flag w 15 then cfgStored w t else Machine.openAll (cfgStored w t)) := by
  refine branch (fun hw => h.trans ⟨rfl, rfl, le_rfl, id, id, id, fun ht => ⟨fun hd => ?_, ht.2⟩⟩) fun _ =>
    h.trans ⟨rfl, rfl, le_rfl, id, id, id, fun _ => fairnessSound_openAll _⟩
  have enabled : (cfgStored w t).sc.cfg.fairness = flag w 15 := by
    unfold cfgStored
    simp [hi, store_four, Cfg.fairness]
  rw [enabled, hw] at hd
  cases hd

theorem writeCfgData (w : Word) (h : Carries s t) : Carries s (writeCfgData w t) := by
  rw [writeCfgData_eq, cfgWriteActs_eq]
  refine branch (fun _ => h.updHp _) fun _ => ?_
  by_cases hi : t.hp.cfgIndex.toNat = 4
  · have hi' : (cfgStored w t).hp.cfgIndex.toNat = 4 := hi
    simp only [hi', Nat.reduceEqDiff, if_false, if_true]
    exact h.arbCtrlWritten w hi
  · have stored : Carries s (cfgStored w t) := (h.updHp _).updSc _ (store_arbCtrl _ hi w)
    exact branch (fun _ => branch (fun _ => stored.startInit) fun _ => stored) fun _ =>
      branch (fun _ => stored.updTb _) fun _ => branch (fun h4 => absurd h4 hi) fun _ => stored

theorem writeRegister (off : BitVec 6) (w : Word) (h : Carries s t) : Carries s (writeRegister off w t) := by
  unfold Machine.writeRegister
  split
  · exact h.writeDevCtrl w
  · exact h.writeCmd w
  iterate 8 exact h.updSeq _
  · exact h.writeXenSet w
  · exact h.writeXenClr w
  · exact h.updEu _ id
  · refine h.updEu _ fun ht => ?_
    obtain ⟨h1, h2, h3, h4, h5, -, -, h8⟩ := ht
    exact ⟨h1, h2, h3, h4, h5, (clampThresh_bounds _).1, (clampThresh_bounds _).2, h8⟩
  · refine h.updEu _ fun ht => ?_
    obtain ⟨h1, h2, h3, h4, h5, h6, h7, -⟩ := ht
    refine ⟨h1, h2, h3, h4, h5, h6, h7, ?_⟩
    have := Nat.mod_lt w.toNat (y := 2 ^ 8) (by norm_num)
    simp only [State.updEu_eu, bits_low]
    omega
  · exact (h.updWin _).discardLatch
  · exact h.writeWinAddrHi w
  · exact h.writeWinData w
  · exact h.updWin _
  · exact h.updHp _
  · exact h.writeCfgData w
  · exact h

/-- The pop of a record changes the Event Unit only. -/
theorem popEvent_eq (s : State) : ∃ e, popEvent s = { s with eu := e } := by
  unfold popEvent
  split
  · exact ⟨_, rfl⟩
  · exact ⟨_, rfl⟩

theorem readEffect (off : BitVec 6) (h : Carries s t) : Carries s (readEffect off t) := by
  unfold Machine.readEffect
  split
  iterate 2 exact h.countReads 1
  · exact h.updEu _ id
  · obtain ⟨e, popped⟩ := popEvent_eq t
    refine h.trans ⟨?_, ?_, ?_, ?_, popEvent_sound, ?_, ?_⟩ <;> rw [popped]
    · exact id
    · exact id
    · exact id
  · exact h.readWinData
  · exact h

/-! ### Every event -/

theorem event {s u : State} (hu : Effect s u) : Carries s (Machine.settle u) := by
  have h := Carries.refl s
  apply Carries.settle
  rcases hu with rfl | ⟨off, w, -, rfl⟩ | ⟨off, rfl⟩ | rfl | ⟨p, w, m, rfl⟩ | ⟨p, rfl⟩ | ⟨p, rfl⟩ | rfl | ⟨-, rfl⟩ |
    ⟨p, hr, rfl⟩ | ⟨f, v, -, hv, rfl⟩ | ⟨f, -, -, rfl⟩ | rfl | ⟨-, rfl⟩ | ⟨-, rfl⟩ | ⟨p, -, -, rfl⟩ | ⟨p, rfl⟩
  · exact h
  · exact h.writeRegister off w
  · exact (h.readEffect off).updHp _
  · exact h.updHp _
  · exact h.captureBeat p w m
  · exact h.replayBeat p
  · exact h.heldOffer p
  · exact h.tickSteps
  · exact h.riseAtInterval
  · simp only [idleReached, Bool.and_eq_true] at hr
    exact h.declareIdle (idleRuns_open hr.1)
  · exact (h.endFlight.processed hv).afterCompletion _
  · exact h.initStep.deferredReset
  · exact h.arbitrate
  · exact h.enterSleep
  · exact h.deferredReset
  · exact (h.abortPort p).closeGrant.finish _ _
  · exact h.closeTest p

end Carries

/-! ### Every command, and every step -/

/-- A reset carries everything but the part's being held. -/
theorem Carries.hardReset (cause : ResetCause) (s : State) : Carries { s with held := none } (hardReset cause s) := by
  refine ⟨rfl, rfl, le_rfl, fun _ => rfl, fun _ => eventUnitSound_reset, fun _ p => ?_,
    fun _ => ⟨fun _ => ⟨rfl, fun p => ?_⟩, fun p _ => ?_⟩⟩
  · cases p <;> exact portSound_reset
  · cases p <;> rfl
  · cases p <;> rfl

theorem Carries.beginReset (cause : ResetCause) (s : State) :
    Carries { s with held := some cause } (beginReset cause s) :=
  have h := hardReset cause s
  ⟨rfl, rfl, le_rfl, h.memory, h.events, h.ports, h.fairness⟩

theorem exec_carries (c : Instr) (s : State) : ∃ t, exec c s = .next t ∧ Carries { s with held := t.held } t := by
  rcases exec_cases c s with ⟨-, u, hu, he⟩ | ⟨cause, he⟩ | ⟨cause, he⟩ | ⟨-, he | he⟩
  · have h := Carries.event hu
    exact ⟨_, he, by rwa [h.held]⟩
  · exact ⟨_, he, .beginReset cause s⟩
  · exact ⟨_, he, .hardReset cause s⟩
  · exact ⟨_, he, .refl s⟩
  · exact ⟨_, he, (Carries.refl s).updHp _⟩

theorem carries_of_exec {c : Instr} {s t : State} (h : exec c s = .next t) :
    Carries { s with held := t.held } t := by
  obtain ⟨u, hu, hc⟩ := exec_carries c s
  obtain rfl := Host.Outcome.next.inj (hu.symm.trans h)
  exact hc

/-- A REFCLK period changes the divider and the queue only. -/
theorem refclkPeriod_eq (s : State) :
    ∃ l n, refclkPeriod s = { s with pending := l, tb := { s.tb with divider := n } } := by
  unfold refclkPeriod
  split
  · exact ⟨s.pending, s.tb.divider, rfl⟩
  · split
    · exact ⟨_, _, rfl⟩
    · exact ⟨_, _, rfl⟩

/-- A predicate that operations carry, and that rests on neither the queue, the divider nor the part's being held, is kept
by every step. -/
theorem keeps_of_carries {I : State → Prop} (hc : ∀ s t, Carries s t → I s → I t)
    (hq : ∀ s l h tb, I s → I { s with pending := l, held := h, tb := tb }) {s t : State} (hs : I s) (h : step s = .next t) : I t := by
  rcases step_cases h with ⟨c, rest, -, he⟩ | ⟨-, ⟨-, rfl⟩ | he | he | ⟨-, rfl⟩⟩
  · exact hc _ _ (carries_of_exec he) (hq s rest t.held s.tb hs)
  · exact hs
  · exact hc _ _ (carries_of_exec he) (hq s s.pending t.held s.tb hs)
  · exact hc _ _ (carries_of_exec he) (hq s s.pending t.held s.tb hs)
  · obtain ⟨l, n, e⟩ := refclkPeriod_eq s
    exact e ▸ hq s l s.held _ hs

/-- Settles O2: every command completes, and what it does carries the queue and the free-value counter. -/
theorem everyCommandCompletesAndKeepsTheQueue : Obligations.EveryCommandCompletesAndKeepsTheQueue := by
  intro c s
  obtain ⟨t, he, hc⟩ := exec_carries c s
  exact ⟨t, he, hc.pending, hc.freeIndex⟩

/-- Settles O55. -/
theorem stepKeepsMemoryCanonical : Obligations.StepKeepsMemoryCanonical :=
  fun _ _ => keeps_of_carries (I := MemoryCanonical) (fun _ _ hc => hc.memory) fun _ _ _ _ => id

/-- Settles O56. -/
theorem stepKeepsEventUnitSound : Obligations.StepKeepsEventUnitSound :=
  fun _ _ => keeps_of_carries (I := EventUnitSound) (fun _ _ hc => hc.events) fun _ _ _ _ => id

/-- Settles O58. -/
theorem stepKeepsFairnessSound : Obligations.StepKeepsFairnessSound :=
  fun _ _ => keeps_of_carries (I := FairnessSound) (fun _ _ hc => hc.fairness) fun _ _ _ _ => id

/-- The first half of O57: every step keeps sound ports. -/
theorem step_keeps_portsSound {s t : State} : PortsSound s → step s = .next t → PortsSound t :=
  keeps_of_carries (I := PortsSound) (fun _ _ hc => hc.ports) fun _ _ _ _ => id

/-! ### Requests and pins (section 5.6, R79, R85, R152) -/

theorem settled_of_running {s : State} (h : s.held = none) : Settled s ↔ settle s = s := by simp [Settled, h]

/-- Settling rests on neither the queue nor the divider. -/
theorem settled_queue_divider {s : State} (l : List Instr) (n : Nat) (h : Settled s) :
    Settled { s with pending := l, tb := { s.tb with divider := n } } := by
  cases hs : s.held with
  | some cause => simpa [Settled, hs] using h
  | none =>
    have settled := (settled_of_running hs).1 h
    refine (settled_of_running rfl).2 ?_
    exact congrArg (fun u : State => { u with pending := l, held := none, tb := { s.tb with divider := n } }) settled

theorem settle_reset : settle State.reset = State.reset := by decide

theorem settled_hardReset (cause : ResetCause) (s : State) : Settled (hardReset cause s) :=
  (settled_of_running rfl).2 (congrArg (fun u : State => { u with
    pending := s.pending
    freeIndex := s.freeIndex
    hp := { dataBus := s.hp.dataBus }
    sc := { resetCause := cause } }) settle_reset)

/-- Settles O60: every event ends settled, and a reset is quiet when it begins and settled when it ends. -/
theorem stepKeepsSettled : Obligations.StepKeepsSettled := by
  intro s t
  refine step_keeps (I := Settled) (fun s l h => settled_queue_divider l s.tb.divider h) (fun s hh h => ?_)
    (fun s cause _ => rfl) (fun s cause _ => settled_hardReset cause s) (fun s _ h => ?_)
    fun s u hn _ hu => settled_of_settle _ ((Carries.event hu).held.trans hn)
  · simpa [Settled, driveBus, hh] using h
  · obtain ⟨l, n, e⟩ := refclkPeriod_eq s
    exact e ▸ settled_queue_divider l n h

end Sys2Proof.Proofs

/-! PROOFS. Work for one port: what the operations of a port leave alone, whatever they make of it. -/

namespace Sys2Proof.Proofs

open Sys2Proof.Machine Sys2Proof.Safety Sys2Proof.Laws

/-- A transaction of port p becomes an orphan (R114). -/
def orphaned (p : PortId) (f : Flight) : Flight := if f.who = .port p then { f with orphan := true } else f

theorem orphaned_def (p : PortId) (f : Flight) : orphaned p f =
    (if f.who = .port p then { f with orphan := true } else f) := rfl

theorem orphaned_orphaned (p : PortId) (f : Flight) : orphaned p (orphaned p f) = orphaned p f := by
  unfold orphaned
  split <;> simp_all

theorem orphaned_who (p : PortId) (f : Flight) : (orphaned p f).who = f.who := by
  unfold orphaned
  split <;> rfl

/-- `t` comes from `s` by operations on port p: the setup, the Host Port, the grant record and the other ports are as
before, of the controller only memory and p's transaction in flight may differ, and a CLOSED port stays so. -/
def PortWork (p : PortId) (s t : State) : Prop :=
  t.sc = s.sc ∧ t.hp = s.hp ∧ t.ma.grant = s.ma.grant ∧ (∀ r, r ≠ p → t.port r = s.port r) ∧
  ((s.port p).state = .closed → (t.port p).state = .closed) ∧
  ∃ m, t.mc = { s.mc with mem := m } ∨ t.mc = { s.mc with mem := m, flight := s.mc.flight.map (orphaned p) }

namespace PortWork

variable {p : PortId} {s t u : State}

theorem setup (h : PortWork p s t) : t.sc = s.sc := h.1

theorem hostPort (h : PortWork p s t) : t.hp = s.hp := h.2.1

theorem others (h : PortWork p s t) {r : PortId} (hr : r ≠ p) : t.port r = s.port r := h.2.2.2.1 r hr

theorem pcfg_eq (h : PortWork p s t) (r : PortId) : t.pcfg r = s.pcfg r := by
  simp only [State.pcfg, h.setup]

protected theorem refl (p : PortId) (s : State) : PortWork p s s :=
  ⟨rfl, rfl, rfl, fun _ _ => rfl, id, s.mc.mem, .inl rfl⟩

theorem trans (h : PortWork p s t) (k : PortWork p t u) : PortWork p s u := by
  obtain ⟨hsc, hhp, hg, ho, hc, m, hm⟩ := h
  obtain ⟨ksc, khp, kg, ko, kc, n, kn⟩ := k
  refine ⟨ksc.trans hsc, khp.trans hhp, kg.trans hg, fun r hr => (ko r hr).trans (ho r hr), kc ∘ hc, n, ?_⟩
  have twice : (s.mc.flight.map (orphaned p)).map (orphaned p) = s.mc.flight.map (orphaned p) := by
    cases s.mc.flight <;> simp [orphaned_orphaned]
  rcases hm with hm | hm <;> rcases kn with kn | kn <;> rw [kn, hm]
  · exact .inl rfl
  · exact .inr rfl
  · exact .inr rfl
  · exact .inr (by rw [twice])

theorem branch {c : Prop} [Decidable c] {a b : State} (ha : c → PortWork p s a) (hb : ¬ c → PortWork p s b) :
    PortWork p s (if c then a else b) := by
  split
  next h => exact ha h
  next h => exact hb h

/-! ### Updates -/

theorem updEu (f : EventUnit → EventUnit) (h : PortWork p s t) : PortWork p s (t.updEu f) :=
  h.trans ⟨rfl, rfl, rfl, fun _ _ => rfl, id, t.mc.mem, .inl rfl⟩

theorem updPort {f : Port → Port} (hc : (t.port p).state = .closed → (f (t.port p)).state = .closed)
    (h : PortWork p s t) : PortWork p s (t.updPort p f) := by
  refine h.trans ⟨rfl, rfl, rfl, fun r hr => ?_, fun hx => ?_, t.mc.mem, .inl rfl⟩
  · exact State.updPort_port_ne f t hr
  · rw [State.updPort_port_self]
    exact hc hx

theorem countReads (n : Nat) (h : PortWork p s t) : PortWork p s (countReads n t) :=
  h.trans ⟨rfl, rfl, rfl, fun _ _ => rfl, id, t.mc.mem, .inl rfl⟩

theorem writeMemory (a : Nat) (ws : List Word) (h : PortWork p s t) : PortWork p s (writeMemory a ws t) :=
  h.trans ⟨rfl, rfl, rfl, fun _ _ => rfl, id, _, .inl rfl⟩

theorem orphanFlight (h : PortWork p s t) : PortWork p s (orphanFlight p t) :=
  h.trans ⟨rfl, rfl, rfl, fun _ _ => rfl, id, t.mc.mem, .inr rfl⟩

/-! ### The shared operations -/

theorem post (r : Report) (h : PortWork p s t) : PortWork p s (post r t) := h.updEu _

theorem postAll (rs : List Report) (h : PortWork p s t) : PortWork p s (postAll rs t) := by
  induction rs generalizing t with
  | nil => exact h
  | cons r rs ih => exact ih (h.post r)

theorem setSummary (b : BitVec 8) (h : PortWork p s t) : PortWork p s (setSummary b t) := h.updEu _

theorem endWork (how : Ending) (h : PortWork p s t) : PortWork p s (endWork p how t) := by
  rw [endWork_eq_postAll]
  exact h.postAll _

theorem enterClosed (d : Detail) (n : Nat) (h : PortWork p s t) : PortWork p s (enterClosed p d n t) :=
  ((h.post ⟨.portClosed, .port p, 0, d, n⟩).updPort (f := Port.closed) fun _ => rfl).trans
    ⟨rfl, rfl, rfl, fun _ _ => rfl, id, t.mc.mem, .inl rfl⟩

theorem closeEnd (h : PortWork p s t) : PortWork p s (closeEnd p t) := (h.endWork _).enterClosed _ _

theorem closeTest (h : PortWork p s t) : PortWork p s (closeTest p t) := branch (fun _ => h.closeEnd) fun _ => h

theorem abandon (h : PortWork p s t) : PortWork p s (abandon p t) := ((h.endWork _).orphanFlight).enterClosed _ _

theorem abortPort (h : PortWork p s t) : PortWork p s (abortPort p t) := by
  unfold Machine.abortPort
  split
  · exact h
  · exact h.enterClosed _ _
  all_goals exact (h.endWork _).enterClosed _ _

theorem fault (cause : Detail) (h : PortWork p s t) : PortWork p s (fault p cause t) := by
  refine branch (fun hf => ((((h.endWork _).orphanFlight).updPort fun hc => ?_).post _).setSummary _) fun _ => h
  simp only [orphanFlight_port, endWork_port] at hc
  simp [hc, PState.faultable] at hf

theorem doneHead (d : Detail) (h : PortWork p s t) : PortWork p s (doneHead p d t) := by
  cases hq : (t.port p).queue with
  | nil => rwa [doneHead_nil d hq]
  | cons e r =>
    have reported : PortWork p s (if e.desc.notify || e.desc.stop then
        Machine.post ⟨.segDone, .port p, e.desc.tag, d, e.progress⟩ t else t) := branch (fun _ => h.post _) fun _ => h
    have same : (if e.desc.notify || e.desc.stop then
        Machine.post ⟨.segDone, .port p, e.desc.tag, d, e.progress⟩ t else t).port p = t.port p := by split <;> rfl
    have moved := reported.updPort (f := fun _ => Port.doneWith (t.pcfg p).dir e.desc (t.port p)) fun hc => by
      rw [same] at hc
      rw [Port.doneWith_eq _ hq, if_neg (by simp [hc])]
      exact hc
    rw [doneHead_eq d hq]
    split
    · exact moved.setSummary _
    · exact moved

theorem startOverrun (h : PortWork p s t) : PortWork p s (startOverrun p t) :=
  branch (fun _ => h) fun _ => (h.updPort id).post _

theorem startUnderrun (h : PortWork p s t) : PortWork p s (startUnderrun p t) :=
  branch (fun _ => h) fun _ => (h.updPort id).post _

/-! ### Completions (R103 to R111) -/

theorem captureSteps (f : Flight) (h : PortWork p s t) : PortWork p s (captureSteps p f t) := by
  unfold Machine.captureSteps
  split
  · exact h.closeTest
  next e r hq =>
    have advanced : PortWork p s (t.updPort p fun x => (x.advance f.count).logMarks e.desc.tag e.progress f.addr f.words) :=
      h.updPort fun hc => (captured_state _ _ _ _ _ _).trans hc
    refine PortWork.closeTest ?_
    cases guardPassed e f.count with
    | none => exact branch (fun _ => advanced.doneHead _) fun _ => branch (fun _ => advanced.doneHead _) fun _ => advanced
    | some g =>
      exact branch (fun _ => (advanced.post _).doneHead _) fun _ =>
        branch (fun _ => (advanced.post _).doneHead _) fun _ => advanced.post _

theorem captureCompletion {f : Flight} (hf : f.who = .port p) (h : PortWork p s t) :
    PortWork p s (captureCompletion f t) := by
  simp only [Machine.captureCompletion, hf]
  exact branch (fun _ => h.writeMemory _ _) fun _ => (h.writeMemory _ _).captureSteps f

theorem parityPolicy (tag : Byte) (bad : Nat) (h : PortWork p s t) : PortWork p s (parityPolicy p tag bad t) :=
  branch (fun _ => h) fun _ => branch (fun _ => (h.post _).fault _) fun _ => h.post _

theorem replayCompletion {f : Flight} (hf : f.who = .port p) (h : PortWork p s t) :
    PortWork p s (replayCompletion f t) := by
  simp only [Machine.replayCompletion, hf]
  exact branch (fun _ => (h.countReads _).updPort id) fun _ =>
    (((h.countReads _).updPort (f := Port.place _ _) id).parityPolicy _ _).closeTest

/-! ### Link idle (R93) -/

theorem declareIdle (h : PortWork p s t) : PortWork p s (declareIdle p t) :=
  have declared := (h.updPort (f := fun y => { y with idleCount := y.idleCount + 1, idleDeclared := true }) id).post
    ⟨.linkIdle, .port p, (t.port p).headTag, .noDetail, (t.port p).fifo.length⟩
  branch (fun _ => declared.abandon) fun _ => declared

theorem tickLinkIdle (h : PortWork p s t) : PortWork p s (tickLinkIdle p t) :=
  branch (fun _ => h.declareIdle) fun _ => branch (fun _ => h.updPort id) fun _ => h

/-! ### Links (Chapter 5) -/

theorem heldOffer (h : PortWork p s t) : PortWork p s (heldOffer p t) := by
  unfold Machine.heldOffer
  dsimp only
  split
  · exact branch (fun _ => h.startOverrun) fun _ => h
  · exact branch (fun _ => h.startUnderrun) fun _ => h

theorem captureBeat (w : Word) (m : Bool) (h : PortWork p s t) : PortWork p s (captureBeat p w m t) :=
  branch (fun _ => h) fun _ => branch (fun _ => h.heldOffer) fun _ =>
    branch (fun _ => h.updPort (f := Port.accept w m) id) fun _ =>
      branch (fun _ => ((h.updPort (f := fun x => { x with drop := saturate 65535 x.drop }) id).startOverrun).updPort
        (f := Port.beatSeen) id) fun _ => h.fault _

theorem emitSteps (e : FifoWord) (h : PortWork p s t) : PortWork p s (emitSteps p e t) := by
  unfold Machine.emitSteps
  split
  next a r b _ _ =>
    have advanced : PortWork p s (t.updPort p (Port.advance 1)) := h.updPort (f := Port.advance 1) id
    have told : PortWork p s (if guardHit a b then postPort p .guard a.desc.tag .noDetail b.index (t.updPort p (Port.advance 1))
        else t.updPort p (Port.advance 1)) := branch (fun _ => advanced.post _) fun _ => advanced
    exact branch (fun _ => told.doneHead _) fun _ => told
  · exact h

theorem emit (e : FifoWord) (h : PortWork p s t) : PortWork p s (emit p e t) := by
  have popped := h.updPort (f := fun x => { x with fifo := x.fifo.tail }) id
  exact PortWork.closeTest ((popped.emitSteps e).updPort (f := fun x => Port.beatSeen { x with underrun := false }) id)

theorem replayBeat (h : PortWork p s t) : PortWork p s (replayBeat p t) := by
  refine branch (fun _ => h) fun _ => branch (fun _ => h.heldOffer) fun _ => ?_
  split
  · exact h.emit _
  · exact ((h.updPort (f := fun x => { x with fill := saturate 65535 x.fill }) id).startUnderrun).updPort
      (f := Port.beatSeen) id

/-! ### Commands of a port -/

theorem closeNow (h : PortWork p s t) : PortWork p s (closeNow p t) :=
  branch (fun _ => h.closeEnd) fun _ => branch (fun _ => h.abandon) fun _ => h

end PortWork

end Sys2Proof.Proofs

/-! PROOFS. Device, transaction in flight and refresh account agree after every step (R19, R43 to R52, R56, R59, R133,
R178). -/

namespace Sys2Proof.Proofs

open Sys2Proof.Machine Sys2Proof.Safety Sys2Proof.Laws

/-! ### What the controller's relations rest on -/

/-- `n` differs from `m` in memory and in the orphan marks of a granted transaction or a window read only. -/
def SameController (m n : MemCtl) : Prop :=
  ∃ mem, ∃ g : Flight → Flight, (∀ f, (g f).who = f.who) ∧
    (∀ f, f.who = .controller → f.kind ≠ .wordRead → g f = f) ∧
    n = { m with mem := mem, flight := m.flight.map g }

namespace SameController

variable {l m n : MemCtl}

theorem mem (m : MemCtl) (c : Memory) : SameController m { m with mem := c } :=
  ⟨c, id, fun _ => rfl, fun _ _ _ => rfl, by simp⟩

protected theorem refl (m : MemCtl) : SameController m m := mem m m.mem

theorem trans (h : SameController l m) (k : SameController m n) : SameController l n := by
  obtain ⟨c, g, hw, hg, rfl⟩ := h
  obtain ⟨d, g', kw, kg, rfl⟩ := k
  refine ⟨d, g' ∘ g, fun f => (kw _).trans (hw f), fun f hf hk => ?_, by simp⟩
  rw [Function.comp_apply, hg f hf hk, kg f hf hk]

theorem flightMap (m : MemCtl) {g : Flight → Flight} (hw : ∀ f, (g f).who = f.who)
    (hg : ∀ f, f.who = .controller → f.kind ≠ .wordRead → g f = f) :
    SameController m { m with flight := m.flight.map g } := ⟨m.mem, g, hw, hg, rfl⟩

end SameController

/-- `t` has what the device, flight and refresh relations of `s` rest on; its CLOSED ports stay CLOSED. -/
def ControllerFrame (s t : State) : Prop :=
  t.sc.device = s.sc.device ∧ t.sc.resetPending = s.sc.resetPending ∧ t.ma.grant = s.ma.grant ∧
  (t.hp.seq.running = some .doze ↔ s.hp.seq.running = some .doze) ∧
  (∀ p, t.hp.seq.running = some (.portAbort p) → s.hp.seq.running = some (.portAbort p)) ∧
  (∀ p, (s.port p).state = .closed → (t.port p).state = .closed) ∧ SameController s.mc t.mc

theorem grantedFlight_eq (s : State) :
    grantedFlight s = (s.mc.flight.map Flight.who).filter (fun r => decide (r ≠ .controller)) := by
  unfold grantedFlight
  cases s.mc.flight with
  | none => rfl
  | some f => by_cases h : f.who = .controller <;> simp [h, Option.filter]

theorem initFlight_who (b : Bool) (n k : Nat) : (initFlight b n k).who = .controller := rfl

theorem initFlight_kind (b : Bool) (n k : Nat) : (initFlight b n k).kind ≠ .wordRead := by
  simp only [initFlight]
  split_ifs <;> nofun

/-- The relations between the controller's state, its init position and the transaction in flight (R43 to R48). -/
def InitSound (s : State) : Prop :=
  (s.mc.state = .off ∨ s.mc.state = .sleep → s.mc.flight = none) ∧
  (s.mc.state = .init ↔ s.mc.init ≠ .idle) ∧
  (s.mc.init = .idle → grantedFlight s = s.mc.flight.map Flight.who) ∧
  (s.mc.init = .awaiting → (grantedFlight s).isSome = true) ∧
  (∀ n b k, s.mc.init = .step n b k → k ≤ n + 1 ∧ s.mc.flight = some (initFlight b n k))

/-- Who waits for the transaction in flight: the grant record, a pending soft reset, a waiting abort. -/
def WaitersSound (s : State) : Prop :=
  s.ma.grant.map Grant.who = grantedFlight s ∧ (s.sc.resetPending = true → s.mc.flight.isSome = true) ∧
  ∀ p : PortId, s.hp.seq.running = some (.portAbort p) → grantedFlight s = some (.port p)

theorem flightSound_iff (s : State) : FlightSound s ↔ InitSound s ∧ WaitersSound s := by
  unfold FlightSound InitSound WaitersSound
  cases s.mc.init <;> simp [and_assoc]

theorem controllerSound_iff (s : State) :
    ControllerSound s ↔ DeviceSound s ∧ InitSound s ∧ WaitersSound s ∧ RefreshSound s := by
  unfold ControllerSound
  rw [flightSound_iff]
  exact and_congr_right fun _ => and_assoc

namespace ControllerFrame

variable {p : PortId} {s t u : State}

theorem device (h : ControllerFrame s t) : t.sc.device = s.sc.device := h.1

theorem resetPending (h : ControllerFrame s t) : t.sc.resetPending = s.sc.resetPending := h.2.1

theorem grant (h : ControllerFrame s t) : t.ma.grant = s.ma.grant := h.2.2.1

theorem doze (h : ControllerFrame s t) : t.hp.seq.running = some .doze ↔ s.hp.seq.running = some .doze := h.2.2.2.1

theorem aborts (h : ControllerFrame s t) (ht : t.hp.seq.running = some (.portAbort p)) :
    s.hp.seq.running = some (.portAbort p) := h.2.2.2.2.1 p ht

theorem closed (h : ControllerFrame s t) (hs : (s.port p).state = .closed) : (t.port p).state = .closed :=
  h.2.2.2.2.2.1 p hs

theorem mc (h : ControllerFrame s t) : SameController s.mc t.mc := h.2.2.2.2.2.2

protected theorem refl (s : State) : ControllerFrame s s :=
  ⟨rfl, rfl, rfl, Iff.rfl, fun _ => id, fun _ => id, .refl s.mc⟩

theorem trans (h : ControllerFrame s t) (k : ControllerFrame t u) : ControllerFrame s u :=
  ⟨k.device.trans h.device, k.resetPending.trans h.resetPending, k.grant.trans h.grant, k.doze.trans h.doze,
    fun _ hu => h.aborts (k.aborts hu), fun _ hs => k.closed (h.closed hs), h.mc.trans k.mc⟩

theorem grantedFlight_eq (h : ControllerFrame s t) : grantedFlight t = grantedFlight s := by
  obtain ⟨c, g, hw, -, hm⟩ := h.mc
  rw [Proofs.grantedFlight_eq, Proofs.grantedFlight_eq, hm]
  have same : (s.mc.flight.map g).map Flight.who = s.mc.flight.map Flight.who := by
    cases s.mc.flight <;> simp [hw]
  exact congrArg _ same

theorem deviceSound (h : ControllerFrame s t) (hs : DeviceSound s) : DeviceSound t := by
  obtain ⟨d1, d2, d3, d4, d5⟩ := hs
  obtain ⟨c, g, -, -, hm⟩ := h.mc
  unfold DeviceSound
  rw [h.device, h.doze, hm]
  exact ⟨fun hd p => h.closed (d1 hd p), d2, d3, d4, fun hr => ⟨(d5 hr).1, fun p => h.closed ((d5 hr).2 p)⟩⟩

theorem initSound (h : ControllerFrame s t) (hs : InitSound s) : InitSound t := by
  obtain ⟨h1, h2, h3, h4, h5⟩ := hs
  obtain ⟨c, g, hw, hg, hm⟩ := h.mc
  have whose : (s.mc.flight.map g).map Flight.who = s.mc.flight.map Flight.who := by
    cases s.mc.flight <;> simp [hw]
  unfold InitSound
  rw [h.grantedFlight_eq, hm]
  refine ⟨fun hx => by simp [h1 hx], h2, fun hi => (h3 hi).trans whose.symm, h4, fun n b k hi => ?_⟩
  obtain ⟨hk, hf⟩ := h5 n b k hi
  refine ⟨hk, ?_⟩
  show s.mc.flight.map g = _
  rw [hf, Option.map_some, hg _ (initFlight_who b n k) (initFlight_kind b n k)]

theorem waitersSound (h : ControllerFrame s t) (hs : WaitersSound s) : WaitersSound t := by
  obtain ⟨h1, h2, h3⟩ := hs
  obtain ⟨c, g, -, -, hm⟩ := h.mc
  unfold WaitersSound
  rw [h.grantedFlight_eq, h.grant, h.resetPending, hm]
  exact ⟨h1, fun hr => by simpa using h2 hr, fun p ht => h3 p (h.aborts ht)⟩

theorem refreshSound (h : ControllerFrame s t) (hs : RefreshSound s) : RefreshSound t := by
  obtain ⟨c, g, -, -, hm⟩ := h.mc
  unfold RefreshSound
  rw [hm]
  exact hs

theorem sound (h : ControllerFrame s t) (hs : ControllerSound s) : ControllerSound t := by
  obtain ⟨hd, hi, hw, hr⟩ := (controllerSound_iff s).1 hs
  exact (controllerSound_iff t).2 ⟨h.deviceSound hd, h.initSound hi, h.waitersSound hw, h.refreshSound hr⟩

theorem branch {c : Prop} [Decidable c] {a b : State} (ha : c → ControllerFrame s a) (hb : ¬ c → ControllerFrame s b) :
    ControllerFrame s (if c then a else b) := by
  split
  next h => exact ha h
  next h => exact hb h

/-! ### Operations within the frame -/

theorem ofPort (h : PortWork p t u) (hs : ControllerFrame s t) : ControllerFrame s u := by
  refine hs.trans ?_
  obtain ⟨hsc, hhp, hg, ho, hc, m, hm⟩ := h
  refine ⟨by rw [hsc], by rw [hsc], hg, by rw [hhp], fun _ => by rw [hhp]; exact id, fun r hr => ?_, ?_⟩
  · by_cases e : r = p
    · subst e
      exact hc hr
    · rwa [ho r e]
  · rcases hm with hm | hm <;> rw [hm]
    · exact .mem _ _
    · refine ⟨m, orphaned p, orphaned_who p, fun f hf _ => ?_, rfl⟩
      simp [orphaned_def, hf]

theorem updEu (f : EventUnit → EventUnit) (h : ControllerFrame s t) : ControllerFrame s (t.updEu f) :=
  h.trans (.refl t)

theorem updTb (f : Timebase → Timebase) (h : ControllerFrame s t) : ControllerFrame s (t.updTb f) :=
  h.trans (.refl t)

theorem countReads (n : Nat) (h : ControllerFrame s t) : ControllerFrame s (countReads n t) := h.trans (.refl t)

theorem updSeq (f : Sequencer → Sequencer) (hf : (f t.hp.seq).running = t.hp.seq.running) (h : ControllerFrame s t) :
    ControllerFrame s (t.updSeq f) := by
  refine h.trans ⟨rfl, rfl, rfl, ?_, fun p => ?_, fun _ => id, .refl _⟩ <;> rw [State.updSeq_hp]
  · rw [hf]
  · rw [hf]
    exact id

theorem updWin (f : Window → Window) (h : ControllerFrame s t) : ControllerFrame s (t.updWin f) := h.trans (.refl t)

theorem updMa (f : Arbiter → Arbiter) (hf : (f t.ma).grant = t.ma.grant) (h : ControllerFrame s t) :
    ControllerFrame s (t.updMa f) := h.trans ⟨rfl, rfl, hf, Iff.rfl, fun _ => id, fun _ => id, .refl _⟩

theorem openAll (h : ControllerFrame s t) : ControllerFrame s (openAll t) := h.updMa _ rfl

theorem mapPorts {q : Quad Port} (hq : ∀ p, (t.port p).state = .closed → (q.get p).state = .closed)
    (h : ControllerFrame s t) : ControllerFrame s { t with ports := q } :=
  h.trans ⟨rfl, rfl, rfl, Iff.rfl, fun _ => id, hq, .refl _⟩

theorem settlePorts (h : ControllerFrame s t) : ControllerFrame s (settlePorts t) := by
  refine h.mapPorts fun p hp => ?_
  rwa [Quad.get_map, settlePort_state]

theorem settle (h : ControllerFrame s t) : ControllerFrame s (settle t) := h.settlePorts.trans (.refl _)

theorem writeMemory (a : Nat) (ws : List Word) (h : ControllerFrame s t) : ControllerFrame s (writeMemory a ws t) :=
  h.trans ⟨rfl, rfl, rfl, Iff.rfl, fun _ => id, fun _ => id, .mem _ _⟩

theorem discardLatch (h : ControllerFrame s t) : ControllerFrame s (discardLatch t) := by
  refine h.trans ⟨rfl, rfl, rfl, Iff.rfl, fun _ => id, fun _ => id, .flightMap _ (fun f => ?_) fun f _ hk => ?_⟩
  · split <;> rfl
  · rw [if_neg hk]

theorem dropWindow (h : ControllerFrame s t) : ControllerFrame s (dropWindow t) := by
  have latched : ControllerFrame s (if t.hp.win.latch = .pending ∧ prefetchGranted t = false then
      t.updWin fun w => { w with latch := .empty } else t) := branch (fun _ => h.updWin _) fun _ => h
  exact branch (fun _ => (latched.updWin _).updWin _) fun _ => latched

/-- A command of which the sleep request takes no notice ends. -/
theorem finish (r : Result) (q : Words4) (hd : t.hp.seq.running ≠ some .doze) (h : ControllerFrame s t) :
    ControllerFrame s (finish r q t) :=
  h.trans ⟨rfl, rfl, rfl, ⟨nofun, fun e => absurd e hd⟩, nofun, fun _ => id, .refl _⟩

/-- A memory command runs, goes on or ends. -/
theorem running {x : Option Running} (hs : s.hp.seq.running ≠ some .doze) (hx : x ≠ some .doze)
    (ha : ∀ p, x ≠ some (.portAbort p)) (f : Sequencer → Sequencer) (hf : (f t.hp.seq).running = x)
    (h : ControllerFrame s t) : ControllerFrame s (t.updSeq f) :=
  ⟨h.device, h.resetPending, h.grant, by rw [State.updSeq_hp, hf]; exact iff_of_false hx hs,
    fun p e => absurd (hf.symm.trans e) (ha p), fun _ => h.closed, h.mc⟩

theorem endMemCommand (r : Result) (hd : t.hp.seq.running ≠ some .doze) (h : ControllerFrame s t) :
    ControllerFrame s (endMemCommand r t) := by
  unfold Machine.endMemCommand
  split
  · exact h.finish _ _ hd
  · exact h

end ControllerFrame

theorem PortWork.frame {p : PortId} {s t : State} (h : PortWork p s t) : ControllerFrame s t :=
  (ControllerFrame.refl s).ofPort h

/-! ### The end of a completion (R49, R70, R133, R178) -/

/-- The granted transaction has ended: nobody's is in flight, and what waited for it has not been told yet. -/
def FlightEnded (s : State) : Prop := DeviceSound s ∧ InitSound s ∧ RefreshSound s ∧ grantedFlight s = none

theorem ControllerFrame.flightEnded {s t : State} (h : ControllerFrame s t) (hs : FlightEnded s) : FlightEnded t := by
  obtain ⟨hd, hi, hr, hg⟩ := hs
  exact ⟨h.deviceSound hd, h.initSound hi, h.refreshSound hr, h.grantedFlight_eq.trans hg⟩

theorem sound_of_flightEnded {s : State} (h : FlightEnded s) (hg : s.ma.grant = none) (hp : s.sc.resetPending = false)
    (ha : ∀ p, s.hp.seq.running ≠ some (.portAbort p)) : ControllerSound s := by
  obtain ⟨hd, hi, hr, hf⟩ := h
  exact (controllerSound_iff s).2 ⟨hd, hi, ⟨by rw [hg, hf]; rfl, by simp [hp], fun p e => absurd e (ha p)⟩, hr⟩

theorem flightEnded_of_sound {s : State} (h : ControllerSound s) (hf : s.mc.flight = none) : FlightEnded s := by
  obtain ⟨hd, hi, -, hr⟩ := (controllerSound_iff s).1 h
  exact ⟨hd, hi, hr, by rw [grantedFlight_eq, hf]; rfl⟩

/-- A soft reset closes every port and leaves the controller's sequence and refresh account alone, SLEEP apart. -/
theorem softReset_sound {s : State} (hi : InitSound s) (hr : RefreshSound s) (hg : grantedFlight s = none) :
    ControllerSound (softReset s) := by
  obtain ⟨h1, h2, h3, h4, h5⟩ := hi
  obtain ⟨r1, r2, r3⟩ := hr
  have closed : AllClosed (softReset s) := fun p => by cases p <;> rfl
  have granted : grantedFlight (softReset s) = none := hg
  have whole : (softReset s).mc = { s.mc with state := (softReset s).mc.state, sleepRequest := false } := rfl
  have hstate : (softReset s).mc.state ≠ .sleep ∧ ((softReset s).mc.state = .off → s.mc.state = .off) ∧
      ((softReset s).mc.state = .init ↔ s.mc.state = .init) ∧
      ((softReset s).mc.state ≠ .ready → s.mc.state ≠ .ready) := by
    unfold softReset
    cases s.mc.state <;> simp
  obtain ⟨hsleep, hoff, hinit, hready⟩ := hstate
  refine (controllerSound_iff _).2 ⟨⟨fun _ => closed, nofun, ⟨nofun, fun e => absurd e hsleep⟩, ⟨nofun, nofun⟩, nofun⟩,
    ⟨?_, hinit.trans h2, ?_, ?_, h5⟩, ⟨granted.symm, nofun, nofun⟩, r1, r2, fun e => r3 (hready e)⟩
  · rintro (e | e)
    · exact h1 (.inl (hoff e))
    · exact absurd e hsleep
  · exact fun e => granted.trans (hg.symm.trans (h3 e))
  · exact fun e => granted ▸ hg ▸ h4 e

theorem deferredReset_sound {s : State} (h : FlightEnded s) (hg : s.ma.grant = none)
    (ha : ∀ p, s.hp.seq.running ≠ some (.portAbort p)) : ControllerSound (deferredReset s) := by
  unfold deferredReset
  split
  · exact softReset_sound h.2.1 h.2.2.1 h.2.2.2
  next hp => exact sound_of_flightEnded h hg (Bool.not_eq_true _ ▸ hp) ha

theorem closeGrant_frame (s : State) : ControllerFrame { s with ma := { s.ma with grant := none } } (closeGrant s) := by
  have h := (ControllerFrame.refl { s with ma := { s.ma with grant := none } }).settlePorts
  rw [closeGrant_eq]
  exact h.trans ⟨rfl, rfl, rfl, Iff.rfl, fun _ => id, fun _ => id, .refl _⟩

theorem closeGrant_flightEnded {s : State} (h : FlightEnded s) : FlightEnded (closeGrant s) :=
  (closeGrant_frame s).flightEnded h

theorem closeGrant_grant (s : State) : (closeGrant s).ma.grant = none := rfl

/-- Every port's transaction ends with the fairness update, a waiting abort's command, a deferred reset. -/
theorem afterCompletion_sound {w : Requester} {s : State} (h : FlightEnded s)
    (hw : ∀ p, s.hp.seq.running = some (.portAbort p) → w = .port p) : ControllerSound (afterCompletion w s) := by
  unfold afterCompletion
  split
  next p ha =>
    have waits : s.hp.seq.running = some (.portAbort p) := by
      unfold abortAwaits at ha
      split at ha
      · split at ha
        next r hr =>
          obtain rfl := Option.some.inj ha
          exact eq_of_beq hr
        · cases ha
      all_goals cases ha
    have aborted := closeGrant_flightEnded (((PortWork.refl p s).abortPort).frame.flightEnded h)
    have ended : ControllerFrame (closeGrant (abortPort p s)) (finish .ok {} (closeGrant (abortPort p s))) := by
      refine (ControllerFrame.refl _).finish _ _ ?_
      rw [closeGrant_hp, ((PortWork.refl p s).abortPort).hostPort, waits]
      nofun
    exact deferredReset_sound (ended.flightEnded aborted) rfl nofun
  next ha =>
    refine deferredReset_sound (closeGrant_flightEnded h) rfl fun p e => ?_
    rw [closeGrant_hp] at e
    rw [hw p e] at ha
    simp [abortAwaits, abortWaits, e] at ha

/-! ### Completions -/

/-- The controller's step frees it, or begins the sequence that a START asked for. -/
theorem endFlight_flightEnded {s : State} {f : Flight} (h : ControllerSound s) (hf : s.mc.flight = some f)
    (hw : f.who ≠ .controller) : FlightEnded (endFlight s) := by
  obtain ⟨hd, ⟨h1, h2, h3, h4, h5⟩, -, hr⟩ := (controllerSound_iff s).1 h
  cases hi : s.mc.init with
  | idle =>
    have notInit : s.mc.state ≠ .init := fun e => (h2.1 e) hi
    rw [endFlight_idle hi]
    exact ⟨hd, ⟨fun _ => rfl, h2, fun _ => rfl, fun e => absurd (hi.symm.trans e) nofun,
      fun n b k e => absurd (hi.symm.trans e) nofun⟩, hr, rfl⟩
  | awaiting =>
    have inInit : s.mc.state = .init := h2.2 (by simp [hi])
    rw [endFlight_awaiting hi]
    refine ⟨hd, ⟨fun e => ?_, ⟨fun _ => nofun, fun _ => inInit⟩, nofun, nofun, fun n b k e => ?_⟩, hr, rfl⟩
    · rw [show s.mc.state = _ from inInit] at e
      simp at e
    · cases e
      exact ⟨Nat.zero_le _, rfl⟩
  | step n b k =>
    rw [(h5 n b k hi).2] at hf
    exact absurd (Option.some.inj hf ▸ initFlight_who b n k) hw

theorem refresh_sound {s : State} (h : FlightEnded s) (f : Flight) : FlightEnded (refreshCompletion f s) := by
  unfold refreshCompletion
  split
  next hready =>
    obtain ⟨hd, hi, ⟨r1, r2, -⟩, hg⟩ := h
    refine ⟨hd, hi, ⟨(Nat.sub_le _ _).trans r1, fun e => ?_, fun e => absurd hready e⟩, hg⟩
    simp only [State.updMc_mc, Bool.and_eq_true, decide_eq_true_eq] at e ⊢
    exact ⟨by omega, (r2 e.1).2⟩
  · exact h

theorem chunkEnd_frame {s t : State} (hd : t.hp.seq.running ≠ some .doze) (h : ControllerFrame s t) :
    ControllerFrame s (chunkEnd t) := by
  unfold chunkEnd
  split
  · exact .branch (fun _ => h.endMemCommand _ hd) fun _ => .branch (fun _ => h.endMemCommand _ hd) fun _ =>
      .branch (fun _ => h.endMemCommand _ hd) fun _ => h
  · exact h

theorem fillCompletion_frame (f : Flight) (s : State) : ControllerFrame s (fillCompletion f s) := by
  have written := (ControllerFrame.refl s).writeMemory f.addr (f.words.map (·.word))
  unfold fillCompletion
  split
  next j pattern hr =>
    exact chunkEnd_frame nofun (written.running (by simp [hr]) (x := some (.memFill (j.cover f.count) pattern)) nofun nofun _ rfl)
  all_goals exact written

theorem crcCompletion_frame (f : Flight) (s : State) : ControllerFrame s (crcCompletion f s) := by
  have read := (ControllerFrame.refl s).countReads f.count
  unfold crcCompletion
  split
  next j crc errors hr =>
    exact chunkEnd_frame nofun (read.running (by simp [hr]) (x := some (.regionCrc _ _ _)) nofun nofun _ rfl)
  all_goals exact read

theorem wordReadCompletion_frame (f : Flight) (s : State) : ControllerFrame s (wordReadCompletion f s) :=
  have read := (ControllerFrame.refl s).countReads 1
  .branch (fun _ => read) fun _ => .branch (fun _ => (read.updWin _).updWin _) fun _ => read.updWin _

theorem wordWriteCompletion_frame (f : Flight) (s : State) : ControllerFrame s (wordWriteCompletion f s) :=
  ((ControllerFrame.refl s).writeMemory _ _).updWin _

theorem portBurst_who {k : Kind} {f : Flight} (h : portBurst k f = true) : ∃ p, f.who = .port p := by
  unfold portBurst at h
  rw [Bool.and_eq_true] at h
  obtain ⟨-, h⟩ := h
  cases hw : f.who with
  | port p => exact ⟨p, rfl⟩
  | refresh => simp [hw] at h
  | host => simp [hw] at h
  | controller => simp [hw] at h

theorem hostBurst_who {k : Kind} {f : Flight} (h : hostBurst k f = true) : f.who = .host := by
  simp only [hostBurst, Bool.and_eq_true, beq_iff_eq] at h
  exact h.2

/-- A completing transaction was granted. -/
theorem Processed.who {f : Flight} {s u : State} (h : Processed f s u) : f.who ≠ .controller := by
  rcases h with ⟨h, -⟩ | ⟨h, -⟩ | ⟨h, -⟩ | ⟨h, -⟩ | ⟨h, -⟩ | ⟨h, -⟩ | ⟨h, -⟩
  iterate 2
    obtain ⟨p, h⟩ := portBurst_who h
    simp [h]
  iterate 2 simp [hostBurst_who h]
  · simp [h]
  iterate 2 simp [hostBurst_who h]

/-- The requester's processing keeps the controller's relations, and starts no abort. -/
theorem Processed.ended {f : Flight} {s u : State} (hp : Processed f s u) (h : FlightEnded s) :
    FlightEnded u ∧ ∀ p, u.hp.seq.running = some (.portAbort p) → s.hp.seq.running = some (.portAbort p) := by
  have framed (k : ControllerFrame s u) : FlightEnded u ∧
      ∀ p, u.hp.seq.running = some (.portAbort p) → s.hp.seq.running = some (.portAbort p) :=
    ⟨k.flightEnded h, fun _ => k.aborts⟩
  rcases hp with ⟨hr, rfl⟩ | ⟨hr, rfl⟩ | ⟨-, rfl⟩ | ⟨-, rfl⟩ | ⟨-, rfl⟩ | ⟨-, rfl⟩ | ⟨-, rfl⟩
  · obtain ⟨p, hw⟩ := portBurst_who hr
    exact framed ((PortWork.refl p s).captureCompletion hw).frame
  · obtain ⟨p, hw⟩ := portBurst_who hr
    exact framed ((PortWork.refl p s).replayCompletion hw).frame
  · exact framed (wordReadCompletion_frame f s)
  · exact framed (wordWriteCompletion_frame f s)
  · refine ⟨refresh_sound h f, fun p => ?_⟩
    unfold refreshCompletion
    split <;> exact id
  · exact framed (fillCompletion_frame f s)
  · exact framed (crcCompletion_frame f s)

theorem endFlight_running (s : State) : (endFlight s).hp = s.hp := by
  unfold endFlight
  dsimp only
  split <;> rfl

theorem completion_sound {s v : State} {f : Flight} (h : ControllerSound s) (hf : s.mc.flight = some f)
    (hp : Processed f (endFlight s) v) : ControllerSound (afterCompletion f.who v) := by
  obtain ⟨hv, ha⟩ := hp.ended (endFlight_flightEnded h hf hp.who)
  obtain ⟨-, -, ⟨-, -, hw⟩, -⟩ := (controllerSound_iff s).1 h
  refine afterCompletion_sound hv fun p e => ?_
  have waits := hw p (endFlight_running s ▸ ha p e)
  rw [grantedFlight_eq, hf] at waits
  simpa [Option.filter, hp.who] using waits

/-! ### The initialisation sequence (R44 to R46) -/

theorem memReady_flightEnded {s : State} (n : Nat) (hd : DeviceSound s) (hs : s.mc.state = .init) :
    FlightEnded (memReady n s) := by
  obtain ⟨d1, d2, d3, d4, d5⟩ := hd
  have notDoze : s.sc.device ≠ .doze := fun e => by simp [hs] at d3; exact d3 e
  exact ⟨⟨d1, fun _ => rfl, ⟨fun e => absurd e notDoze, nofun⟩, d4, d5⟩,
    ⟨fun _ => rfl, ⟨nofun, fun e => absurd rfl e⟩, fun _ => rfl, nofun, nofun⟩, ⟨Nat.zero_le _, nofun, fun e => absurd rfl e⟩, rfl⟩

theorem initStep_sound {s : State} {f : Flight} (h : ControllerSound s) (hf : s.mc.flight = some f)
    (hw : f.who = .controller) : ControllerSound (deferredReset (initStep s)) := by
  obtain ⟨hd, ⟨h1, h2, h3, h4, h5⟩, ⟨hg, -, ha⟩, hr⟩ := (controllerSound_iff s).1 h
  have granted : grantedFlight s = none := by
    rw [grantedFlight_eq, hf]
    simp [Option.filter, hw]
  rw [granted] at hg ha
  have noGrant : s.ma.grant = none := by simpa using hg
  have noAbort (p : PortId) : s.hp.seq.running ≠ some (.portAbort p) := fun e => nomatch ha p e
  have inInit (hi : s.mc.init ≠ .idle) : s.mc.state = .init := h2.2 hi
  cases hi : s.mc.init with
  | idle => simp [h3 hi, hf] at granted
  | awaiting => simp [granted] at h4; exact absurd hi h4
  | step n b k =>
    have hs := inInit (by simp [hi])
    unfold initStep
    rw [hi]
    dsimp only
    split
    next hk =>
      refine deferredReset_sound ⟨hd, ⟨fun e => ?_, ⟨fun _ => nofun, fun _ => hs⟩, nofun, nofun, fun m c l e => ?_⟩, hr, rfl⟩
        noGrant noAbort
      · rw [State.updMc_mc, hs] at e
        simp at e
      · cases e
        exact ⟨hk, rfl⟩
    · exact deferredReset_sound (memReady_flightEnded _ hd hs) noGrant noAbort

theorem issuePrecharge_flightEnded {s : State} (hd : DeviceSound s) (hr : RefreshSound s) (hs : s.mc.state = .init) :
    FlightEnded (issuePrecharge s) := by
  refine ⟨hd, ⟨fun e => ?_, ⟨fun _ => nofun, fun _ => hs⟩, nofun, nofun, fun m c l e => ?_⟩, hr, rfl⟩
  · rw [show (issuePrecharge s).mc.state = s.mc.state from rfl, hs] at e
    simp at e
  · cases e
    exact ⟨Nat.zero_le _, rfl⟩

/-- A sequence begins: nothing else is in flight, and nobody waits. -/
theorem issuePrecharge_sound {s : State} (hd : DeviceSound s) (hr : RefreshSound s) (hs : s.mc.state = .init)
    (hg : s.ma.grant = none) (ha : ∀ p, s.hp.seq.running ≠ some (.portAbort p)) : ControllerSound (issuePrecharge s) := by
  obtain ⟨kd, ki, kr, kg⟩ := issuePrecharge_flightEnded hd hr hs
  exact (controllerSound_iff _).2 ⟨kd, ki, ⟨by rw [kg]; exact congrArg _ hg, fun _ => rfl, fun p e => absurd e (ha p)⟩, kr⟩

/-- With nothing in flight no grant record is kept and no abort waits. -/
theorem no_waiters {s : State} (h : ControllerSound s) (hf : s.mc.flight = none) :
    s.ma.grant = none ∧ s.sc.resetPending = false ∧ ∀ p, s.hp.seq.running ≠ some (.portAbort p) := by
  obtain ⟨-, -, ⟨hg, hp, ha⟩, -⟩ := (controllerSound_iff s).1 h
  have granted : grantedFlight s = none := by rw [grantedFlight_eq, hf]; rfl
  rw [granted] at hg ha
  refine ⟨by simpa using hg, ?_, fun p e => nomatch ha p e⟩
  rw [hf] at hp
  simpa using hp

theorem device_init_sound {s : State} {m : MemCtl} (closed : AllClosed s) (hdev : s.sc.device = .setup)
    (notDoze : s.hp.seq.running ≠ some .doze) (hm : m.state = .init) (hr : m.sleepRequest = false) :
    DeviceSound { s with mc := m } := by
  refine ⟨fun _ => closed, fun e => ?_, iff_of_false (fun e => ?_) fun e => ?_, iff_of_false (fun e => ?_) notDoze,
    fun e => ?_⟩
  · exact nomatch hdev.symm.trans e
  · exact nomatch hdev.symm.trans e
  · exact nomatch hm.symm.trans e
  · exact nomatch hr.symm.trans e
  · exact nomatch hr.symm.trans e

/-- The controller as START in READY leaves it: in INIT, its refresh account restarted (R44). -/
def restarted (s : State) : State :=
  s.updMc fun m => { m with state := .init, owed := 0, intervalCount := 0, lossEpisode := false }

/-- START in READY waits for a transaction in flight; what it drops and ends is nothing of the controller's. -/
theorem startInit_ready {s : State} (hs : s.mc.state = .ready) (hd : s.hp.seq.running ≠ some .doze) :
    ∃ t, ControllerFrame (restarted s) t ∧ startInit s =
      if s.mc.flight.isSome then t.updMc fun m => { m with init := .awaiting } else issuePrecharge t := by
  have dropped : ControllerFrame (restarted s) (dropWindow (restarted s)) := (ControllerFrame.refl _).dropWindow
  have ended : ControllerFrame (restarted s) (if memCommandRunning s && !chunkGranted s then
      endMemCommand .notAwake (dropWindow (restarted s)) else dropWindow (restarted s)) :=
    .branch (fun _ => dropped.endMemCommand _ fun e => hd (dropped.doze.1 e)) fun _ => dropped
  refine ⟨_, ended, ?_⟩
  simp only [startInit, hs]
  rfl

/-- START waits for the granted transaction in flight. -/
theorem awaiting_sound {s : State} (hd : DeviceSound s) (hr : RefreshSound s) (hw : WaitersSound s) (hs : s.mc.state = .init)
    (hg : (grantedFlight s).isSome = true) : ControllerSound (s.updMc fun m => { m with init := .awaiting }) := by
  refine (controllerSound_iff _).2 ⟨hd, ⟨fun e => ?_, ⟨fun _ => nofun, fun _ => hs⟩, nofun, fun _ => hg, nofun⟩, hw, hr⟩
  rcases e with e | e
  · exact nomatch hs.symm.trans e
  · exact nomatch hs.symm.trans e

theorem startInit_sound {s : State} (h : ControllerSound s) (hdev : s.sc.device = .setup) :
    ControllerSound (startInit s) := by
  obtain ⟨⟨d1, d2, d3, d4, d5⟩, ⟨h1, h2, h3, h4, h5⟩, hw, r1, r2, r3⟩ := (controllerSound_iff s).1 h
  have closed : AllClosed s := d1 (by simp [hdev])
  have awake : s.mc.sleepRequest = false := by
    by_contra e
    exact nomatch hdev.symm.trans (d5 (by simpa using e)).1
  have notDoze : s.hp.seq.running ≠ some .doze := fun e => nomatch awake.symm.trans (d4.2 e)
  cases hs : s.mc.state with
  | init | sleep =>
    simp only [startInit, hs]
    exact h
  | off =>
    obtain ⟨noGrant, -, noAbort⟩ := no_waiters h (h1 (.inl hs))
    simp only [startInit, hs]
    exact issuePrecharge_sound (device_init_sound closed hdev notDoze rfl awake) ⟨r1, r2, fun _ => r3 (by simp [hs])⟩ rfl
      noGrant noAbort
  | ready =>
    obtain ⟨t, ht, e⟩ := startInit_ready hs notDoze
    have idle : s.mc.init = .idle := by
      by_contra hi
      exact nomatch hs.symm.trans (h2.2 hi)
    have hd := ht.deviceSound (device_init_sound closed hdev notDoze rfl awake)
    have hr : RefreshSound t := ht.refreshSound ⟨Nat.zero_le _, nofun, fun _ => ⟨rfl, rfl, rfl⟩⟩
    have inInit : t.mc.state = .init := by
      obtain ⟨c, g, -, -, hm⟩ := ht.mc
      rw [hm]
      rfl
    rw [e]
    split
    next hfl =>
      refine awaiting_sound hd hr (ht.waitersSound hw) inInit ?_
      rw [ht.grantedFlight_eq]
      exact (h3 idle).symm ▸ by simpa using hfl
    next hfl =>
      obtain ⟨noGrant, -, noAbort⟩ := no_waiters h (by simpa using hfl)
      exact issuePrecharge_sound hd hr inInit (ht.grant.trans noGrant) fun p hp => noAbort p (ht.aborts hp)

/-! ### The end of an instant (R56, R62 to R69) -/

theorem begin_sound {c : Candidate} {f : Flight} {s : State} (h : ControllerSound s) (hs : s.mc.state = .ready)
    (hf : s.mc.flight = none) (hw : f.who = c.who) (hc : c.who ≠ .controller) : ControllerSound (begin c f s) := by
  obtain ⟨hd, ⟨h1, h2, h3, h4, h5⟩, -, hr⟩ := (controllerSound_iff s).1 h
  obtain ⟨-, noReset, noAbort⟩ := no_waiters h hf
  have idle : s.mc.init = .idle := by
    by_contra e
    exact nomatch hs.symm.trans (h2.2 e)
  have granted : grantedFlight (begin c f s) = some c.who := by
    rw [grantedFlight_eq]
    simp [begin, Option.filter, hw, hc]
  refine (controllerSound_iff _).2 ⟨hd, ⟨fun e => ?_, h2, fun _ => ?_, fun e => ?_, fun n b k e => ?_⟩,
    ⟨granted.symm ▸ rfl, fun _ => rfl, fun p e => absurd e (noAbort p)⟩, hr⟩
  · rw [show (begin c f s).mc.state = s.mc.state from rfl, hs] at e
    simp at e
  · rw [granted]
    exact congrArg some hw.symm
  · exact nomatch idle.symm.trans e
  · exact nomatch idle.symm.trans e

theorem hostFlight_who (w : HostWork) : (hostFlight w).who = .host := by cases w <;> rfl

theorem grant_sound {c : Candidate} {s : State} (h : ControllerSound s) (hs : s.mc.state = .ready)
    (hf : s.mc.flight = none) : ControllerSound (grant c s) := by
  have moved (p : PortId) (g : Port → Port) (hg : ∀ x, (g x).state = x.state) : ControllerSound (s.updPort p g) :=
    ((PortWork.refl p s).updPort (fun e => (hg _).trans e)).frame.sound h
  unfold grant
  split
  next hw => exact begin_sound h hs hf hw.symm (by simp [hw])
  next hw =>
    unfold grantHost
    split
    · exact begin_sound h hs hf ((hostFlight_who _).trans hw.symm) (by simp [hw])
    · exact h
  next p hw =>
    split
    · unfold grantCapture
      dsimp only
      split
      · exact h
      · exact begin_sound (moved p _ fun _ => rfl) hs hf hw.symm (by simp [hw])
    · unfold grantReplay
      dsimp only
      split
      · exact h
      · exact begin_sound (moved p (Port.fetchGranted _ _ _) fun _ => rfl) hs hf hw.symm (by simp [hw])
  · exact h

theorem release_frame (s : State) : ControllerFrame s (release s) :=
  .branch (fun _ => (ControllerFrame.refl s).openAll) fun _ => .refl s

theorem arbitrate_sound {s : State} (h : ControllerSound s) : ControllerSound (arbitrate s) := by
  unfold arbitrate
  split
  next held =>
    have ready := ((ControllerFrame.refl s).settlePorts.trans (release_frame _)).sound h
    simp only [pointHeld, Bool.and_eq_true, beq_iff_eq, Option.isNone_iff_eq_none] at held
    obtain ⟨⟨hs, hf⟩, -⟩ := held
    have same : (release (settlePorts s)).mc = s.mc := by
      unfold release
      split <;> rfl
    dsimp only
    split
    · exact grant_sound ready (same ▸ hs) (same ▸ hf)
    · exact ready
  · exact h

/-- The part in SLEEP and DOZE, with DOZE's command done and nothing of the window dropped yet (R56, R160). -/
def asleep (s : State) : State := { s with
  sc := { s.sc with device := .doze }
  hp := { s.hp with seq := { s.hp.seq with running := none } }
  mc := { s.mc with state := .sleep, sleepRequest := false, intervalCount := 0 } }

theorem enterSleep_frame (s : State) : ControllerFrame (asleep s) (enterSleep s) := by
  have dropped := (ControllerFrame.refl (s.updMc fun m => { m with state := .sleep, sleepRequest := false })).dropWindow
  obtain ⟨c, g, hw, hg, hm⟩ := dropped.mc
  unfold enterSleep
  generalize dropWindow (s.updMc fun m => { m with state := .sleep, sleepRequest := false }) = t at *
  exact ⟨rfl, dropped.resetPending, dropped.grant, iff_of_false nofun nofun, nofun, fun p => dropped.closed, c, g, hw, hg,
    congrArg (fun m : MemCtl => { m with intervalCount := 0 }) hm⟩

theorem asleep_sound {s : State} (h : ControllerSound s) (hs : sleepDue s = true) : ControllerSound (asleep s) := by
  obtain ⟨⟨-, -, -, -, d5⟩, ⟨-, h2, -⟩, -, r1, r2, -⟩ := (controllerSound_iff s).1 h
  simp only [sleepDue, Bool.and_eq_true, beq_iff_eq, Option.isNone_iff_eq_none] at hs
  obtain ⟨⟨⟨hreq, hready⟩, hf⟩, howed⟩ := hs
  obtain ⟨-, closed⟩ := d5 hreq
  obtain ⟨noGrant, noReset, -⟩ := no_waiters h hf
  have idle : s.mc.init = .idle := by
    by_contra e
    exact nomatch hready.symm.trans (h2.2 e)
  have noLoss : s.mc.lossEpisode = false := by
    by_contra e
    have := (r2 (by simpa using e)).1
    omega
  have granted : grantedFlight (asleep s) = none := by
    rw [grantedFlight_eq, show (asleep s).mc.flight = none from hf]
    rfl
  refine (controllerSound_iff _).2 ⟨⟨fun _ => closed, nofun, iff_of_true rfl rfl, ⟨nofun, nofun⟩, nofun⟩,
    ⟨fun _ => hf, ⟨nofun, fun e => absurd idle e⟩, fun _ => ?_, fun e => ?_, fun n b k e => ?_⟩,
    ⟨?_, fun e => ?_, nofun⟩, r1, fun e => ?_, fun _ => ⟨howed, rfl, noLoss⟩⟩
  · rw [granted, show (asleep s).mc.flight = none from hf]
    rfl
  · exact nomatch idle.symm.trans e
  · exact nomatch idle.symm.trans e
  · rw [granted, show (asleep s).ma.grant = none from noGrant]
    rfl
  · exact nomatch noReset.symm.trans e
  · exact nomatch noLoss.symm.trans e

theorem enterSleep_sound {s : State} (h : ControllerSound s) (hs : sleepDue s = true) : ControllerSound (enterSleep s) :=
  (enterSleep_frame s).sound (asleep_sound h hs)

/-! ### The refresh account at a tick (R50 to R52) -/

theorem owedRise_sound {s : State} (h : ControllerSound s) (hs : s.mc.state = .ready) : ControllerSound (owedRise s) := by
  obtain ⟨hd, hi, hw, r1, r2, r3⟩ := (controllerSound_iff s).1 h
  unfold owedRise
  split
  next hl =>
    refine (controllerSound_iff _).2 ⟨hd, hi, hw, ?_, fun e => ?_, fun e => absurd hs e⟩
    · exact hl
    · have := (r2 e).1
      omega
  next hl =>
    have lost : ControllerSound (s.updMc fun m => { m with memSuspect := true, lossEpisode := true, mem := [] }) :=
      (controllerSound_iff _).2 ⟨hd, hi, hw, r1, fun _ => ⟨by simp; omega, rfl⟩, fun e => absurd hs e⟩
    dsimp only
    split
    · exact lost
    · exact lost

theorem intervalCount_sound {s : State} (n : Nat) (h : ControllerSound s) (hs : s.mc.state = .ready) :
    ControllerSound (s.updMc fun m => { m with intervalCount := n }) := by
  obtain ⟨hd, hi, hw, r1, r2, -⟩ := (controllerSound_iff s).1 h
  exact (controllerSound_iff _).2 ⟨hd, hi, hw, r1, r2, fun e => absurd hs e⟩

theorem riseAtInterval_sound {s : State} (h : ControllerSound s) (hs : s.mc.state = .ready) :
    ControllerSound (riseAtInterval s) := owedRise_sound (intervalCount_sound 0 h hs) hs

theorem tickRefresh_sound {s : State} (h : ControllerSound s) : ControllerSound (tickRefresh s) := by
  unfold tickRefresh
  split
  next hs =>
    split
    · exact riseAtInterval_sound h hs
    · exact intervalCount_sound _ h hs
  · exact h

theorem tickSteps_sound {s : State} (h : ControllerSound s) : ControllerSound (tickSteps s) := by
  have counted : ControllerSound (tickCount s) := ((ControllerFrame.refl s).updTb _).sound h
  have idle (p : PortId) {t : State} (ht : ControllerSound t) : ControllerSound (tickLinkIdle p t) :=
    (PortWork.refl p t).tickLinkIdle.frame.sound ht
  unfold tickSteps
  exact idle .p3 (idle .p2 (idle .p1 (idle .p0 (tickRefresh_sound counted))))

/-! ### Commands (Chapter 9): each begins with the sequencer free -/

theorem portWork_finish {p : PortId} {s t : State} (h : PortWork p s t) (hs : s.hp.seq.running = none) (r : Result)
    (q : Words4) : ControllerFrame s (finish r q t) := by
  refine h.frame.finish r q ?_
  rw [h.hostPort, hs]
  nofun

/-- With no command running there is no sleep request and no waiting abort. -/
theorem free_sequencer {s : State} (h : ControllerSound s) (hs : s.hp.seq.running = none) : s.mc.sleepRequest = false := by
  obtain ⟨⟨-, -, -, d4, -⟩, -⟩ := h
  rw [hs] at d4
  simpa using d4

/-- A change of the device state, with no sleep request pending. -/
theorem device_sound {s : State} (h : ControllerSound s) (hr : s.mc.sleepRequest = false) {sc : Setup}
    (hp : sc.resetPending = s.sc.resetPending) (hclosed : sc.device ≠ .armed → AllClosed s)
    (harmed : sc.device = .armed → s.mc.state = .ready) (hdoze : sc.device = .doze ↔ s.mc.state = .sleep) :
    ControllerSound { s with sc := sc } := by
  obtain ⟨⟨-, -, -, d4, -⟩, hi, hw, hrs⟩ := (controllerSound_iff s).1 h
  refine (controllerSound_iff _).2 ⟨⟨hclosed, harmed, hdoze, d4, fun e => nomatch hr.symm.trans e⟩, hi, ?_, hrs⟩
  obtain ⟨w1, w2, w3⟩ := hw
  exact ⟨w1, fun e => w2 (hp ▸ e), w3⟩

theorem armCheck_ready {s : State} (h : armCheck s = none) : s.mc.state = .ready := by
  unfold armCheck at h
  by_contra e
  simp [e] at h

theorem clearXen_frame (s : State) : ControllerFrame s (clearXen s) := by
  refine (ControllerFrame.refl s).mapPorts fun p hp => ?_
  rwa [Quad.get_map]

theorem cmdArm_sound {s : State} (h : ControllerSound s) (hs : s.hp.seq.running = none) : ControllerSound (cmdArm s) := by
  have free : s.hp.seq.running ≠ some .doze := by simp [hs]
  unfold cmdArm
  split
  · exact ((ControllerFrame.refl s).finish _ _ free).sound h
  next hc =>
    have ready := armCheck_ready hc
    have armed : ControllerSound (s.updSc fun c => { c with device := .armed }) :=
      device_sound h (free_sequencer h hs) rfl (fun e => absurd rfl e) (fun _ => ready)
        (iff_of_false nofun fun e => nomatch ready.symm.trans e)
    exact (((clearXen_frame _).openAll).finish _ _ (by exact free)).sound armed

theorem cmdDisarm_sound {s : State} (h : ControllerSound s) (hs : s.hp.seq.running = none) (hd : s.sc.device = .armed) :
    ControllerSound (cmdDisarm s) := by
  have free : s.hp.seq.running ≠ some .doze := by simp [hs]
  have ready : s.mc.state = .ready := h.1.2.1 hd
  unfold cmdDisarm
  split
  next hc =>
    have setup : ControllerSound (s.updSc fun c => { c with device := .setup }) :=
      device_sound h (free_sequencer h hs) rfl (fun _ => (allClosed_iff s).1 hc) nofun
        (iff_of_false nofun fun e => nomatch ready.symm.trans e)
    exact (((ControllerFrame.refl _).openAll).finish _ _ (by exact free)).sound setup
  · exact ((ControllerFrame.refl s).finish _ _ free).sound h

theorem cmdDoze_sound {s : State} (h : ControllerSound s) (hs : s.hp.seq.running = none) (hd : s.sc.device = .armed) :
    ControllerSound (cmdDoze s) := by
  unfold cmdDoze
  split
  next hc =>
    rw [Bool.and_eq_true, allClosed_iff] at hc
    obtain ⟨⟨d1, d2, d3, -, -⟩, hi, ⟨w1, w2, -⟩, hr⟩ := (controllerSound_iff s).1 h
    exact (controllerSound_iff _).2 ⟨⟨d1, d2, d3, iff_of_true rfl rfl, fun _ => ⟨hd, hc.1⟩⟩, hi, ⟨w1, w2, nofun⟩, hr⟩
  · exact ((ControllerFrame.refl s).finish _ _ (by simp [hs])).sound h

theorem cmdWake_sound {s : State} (h : ControllerSound s) (hs : s.hp.seq.running = none) (hd : s.sc.device = .doze) :
    ControllerSound (cmdWake s) := by
  obtain ⟨⟨d1, d2, d3, d4, d5⟩, ⟨h1, h2, h3, h4, h5⟩, hw, r1, r2, r3⟩ := (controllerSound_iff s).1 h
  have asleep : s.mc.state = .sleep := d3.1 hd
  have idle : s.mc.init = .idle := by
    by_contra e
    exact nomatch asleep.symm.trans (h2.2 e)
  have awake := free_sequencer h hs
  obtain ⟨-, -, noLoss⟩ := r3 (by simp [asleep])
  have woken : ControllerSound ((s.updMc fun m => { m with state := .ready, owed := 0, intervalCount := 0 }).updSc
      fun c => { c with device := .armed }) := by
    refine (controllerSound_iff _).2 ⟨⟨fun e => absurd rfl e, fun _ => rfl, iff_of_false nofun nofun, d4,
      fun e => nomatch awake.symm.trans e⟩, ⟨?_, iff_of_false nofun fun e => e idle, h3, h4, h5⟩, hw, Nat.zero_le _,
      fun e => (nomatch noLoss.symm.trans e), fun e => absurd rfl e⟩
    rintro (e | e) <;> cases e
  exact ((ControllerFrame.refl _).finish _ _ (by simp [hs])).sound woken

theorem cmdPortOpen_sound {p : PortId} {s : State} (h : ControllerSound s) (hs : s.hp.seq.running = none)
    (hd : s.sc.device = .armed) : ControllerSound (cmdPortOpen p s) := by
  have awake := free_sequencer h hs
  obtain ⟨⟨-, d2, d3, d4, -⟩, hrest⟩ := h
  have opened : ControllerSound (openFairness p (s.updPort p fun _ => openedPort)) :=
    ⟨⟨fun e => absurd hd e, d2, d3, d4, fun e => nomatch awake.symm.trans e⟩, hrest⟩
  exact ((ControllerFrame.refl _).finish _ _ (by simp [hs])).sound opened

theorem cmdPortClose_frame {p : PortId} {s : State} (hs : s.hp.seq.running = none)
    (hx : (s.port p).state ≠ .closed) : ControllerFrame s (cmdPortClose p s) := by
  have work : PortWork p s (if (s.port p).state = .faulted then enterClosed p .close 0 s
      else closeNow p (s.updPort p Port.enterClosing)) :=
    .branch (fun _ => (PortWork.refl p s).enterClosed _ _) fun _ =>
      ((PortWork.refl p s).updPort fun e => absurd e hx).closeNow
  exact portWork_finish work hs _ _

theorem grantedFlight_of_live {p : PortId} {s : State} (h : liveFlight s p = true) :
    grantedFlight s = some (.port p) := by
  unfold liveFlight at h
  rw [grantedFlight_eq]
  split at h
  next f hf =>
    simp only [Bool.and_eq_true, beq_iff_eq] at h
    rw [hf]
    simp [Option.filter, h.1]
  · cases h

theorem cmdPortAbort_sound {p : PortId} {s : State} (h : ControllerSound s) (hs : s.hp.seq.running = none) :
    ControllerSound (cmdPortAbort p s) := by
  unfold cmdPortAbort
  split
  next hl =>
    obtain ⟨⟨d1, d2, d3, d4, d5⟩, hi, ⟨w1, w2, -⟩, hr⟩ := (controllerSound_iff s).1 h
    have awake := free_sequencer h hs
    refine (controllerSound_iff _).2 ⟨⟨d1, d2, d3, iff_of_false (fun e => nomatch awake.symm.trans e) nofun, d5⟩, hi,
      ⟨w1, w2, fun r e => ?_⟩, hr⟩
    cases e
    exact grantedFlight_of_live hl
  · exact (portWork_finish (PortWork.refl p s).abortPort hs _ _).sound h

theorem cmdSegPost_frame {p : PortId} {s : State} (hs : s.hp.seq.running = none) : ControllerFrame s (cmdSegPost p s) := by
  have ended (r : Result) (q : Words4) : ControllerFrame s (finish r q s) := portWork_finish (.refl p s) hs r q
  refine .branch (fun _ => ended _ _) fun _ => .branch (fun _ => ended _ _) fun _ => .branch (fun _ => ended _ _) fun _ =>
    portWork_finish ((PortWork.refl p s).updPort fun e => ?_) hs _ _
  have closed : ((s.port p).append (s.pcfg p).dir (segPostDesc s.hp.seq.latched.args)).state = .closed := e
  unfold Port.activate
  rw [if_neg (by simp [closed])]
  exact closed

theorem cmdSegFlush_frame {p : PortId} {s : State} (hs : s.hp.seq.running = none) : ControllerFrame s (cmdSegFlush p s) := by
  have cancelled : PortWork p s (cancelAll p .flush (flushSplit (s.pcfg p).dir (s.port p).queue).2 s) := by
    rw [cancelAll_eq_postAll]
    exact (PortWork.refl p s).postAll _
  refine portWork_finish (cancelled.updPort fun e => ?_) hs _ _
  rw [cancelAll_port] at e ⊢
  unfold Port.flushed
  rw [Port.idleIfEmpty, if_neg (by simp [e])]
  exact e

theorem cmdMarkRead_frame {p : PortId} {s : State} (hs : s.hp.seq.running = none) : ControllerFrame s (cmdMarkRead p s) := by
  refine .branch (fun _ => portWork_finish (.refl p s) hs _ _) fun _ => ?_
  split
  · exact portWork_finish (.refl p s) hs _ _
  · exact portWork_finish ((PortWork.refl p s).updPort id) hs _ _

theorem cmdMemFill_frame {s : State} (hs : s.hp.seq.running = none) : ControllerFrame s (cmdMemFill s) := by
  have free : s.hp.seq.running ≠ some .doze := by simp [hs]
  have ended (r : Result) : ControllerFrame s (finish r {} s) := (ControllerFrame.refl s).finish _ _ free
  exact .branch (fun _ => ended _) fun _ => .branch (fun _ => ended _) fun _ =>
    ((ControllerFrame.refl s).running free (x := some (.memFill _ _)) nofun nofun _ rfl).discardLatch

theorem cmdRegionCrc_frame {s : State} (hs : s.hp.seq.running = none) : ControllerFrame s (cmdRegionCrc s) := by
  have free : s.hp.seq.running ≠ some .doze := by simp [hs]
  exact .branch (fun _ => (ControllerFrame.refl s).finish _ _ free) fun _ =>
    ((ControllerFrame.refl s).running free (x := some (.regionCrc _ _ _)) nofun nofun _ rfl).discardLatch

/-- R20: what the device-state check has established of an admitted command. -/
theorem device_of_commonCheck {s : State} {c : Cmd} {p : PortId} (h : commonCheck s c p = none) :
    deviceCheck c s.sc.device s.mc.state = none := by
  unfold commonCheck at h
  split at h
  · cases h
  · split at h
    · cases h
    next hd => exact hd

theorem cmdEffect_sound {s : State} {c : Cmd} {p : PortId} (hc : commonCheck s c p = none) (h : ControllerSound s)
    (hs : s.hp.seq.running = none) : ControllerSound (cmdEffect c p s) := by
  have device := device_of_commonCheck hc
  have ended (r : Result) (q : Words4) : ControllerSound (finish r q s) := (portWork_finish (.refl p s) hs r q).sound h
  cases c with
  | nop => exact ended _ _
  | arm => exact cmdArm_sound h hs
  | disarm => exact cmdDisarm_sound h hs (by cases hd : s.sc.device <;> simp_all [deviceCheck])
  | doze => exact cmdDoze_sound h hs (by cases hd : s.sc.device <;> simp_all [deviceCheck])
  | wake => exact cmdWake_sound h hs (by cases hd : s.sc.device <;> simp_all [deviceCheck])
  | portOpen => exact cmdPortOpen_sound h hs (by cases hd : s.sc.device <;> simp_all [deviceCheck])
  | portClose =>
    obtain ⟨-, -, hx⟩ := admitted_of_commonCheck (code := 0x21) rfl rfl hc
    exact (cmdPortClose_frame hs fun e => by simp [e] at hx).sound h
  | portAbort => exact cmdPortAbort_sound h hs
  | segPost => exact (cmdSegPost_frame hs).sound h
  | segFlush => exact (cmdSegFlush_frame hs).sound h
  | queueStatus => exact ended _ _
  | markRead => exact (cmdMarkRead_frame hs).sound h
  | memFill => exact (cmdMemFill_frame hs).sound h
  | regionCrc => exact (cmdRegionCrc_frame hs).sound h

theorem writeCmd_sound {s : State} (w : Word) (h : ControllerSound s) : ControllerSound (writeCmd w s) := by
  unfold writeCmd
  split
  · exact ((ControllerFrame.refl s).updSeq _ rfl).sound h
  next hb =>
    have free : s.hp.seq.running = none := by simpa using hb
    have latched : ControllerSound (latchCommand w s) := ((ControllerFrame.refl s).updSeq _ rfl).sound h
    unfold runLatched
    dsimp only
    split
    · exact (portWork_finish (.refl .p0 (latchCommand w s)) free _ _).sound latched
    · split
      · exact (portWork_finish (.refl .p0 (latchCommand w s)) free _ _).sound latched
      next hc => exact cmdEffect_sound hc latched free

/-! ### Registers (Chapter 1) -/

theorem requestSoftReset_sound {s : State} (h : ControllerSound s) : ControllerSound (requestSoftReset s) := by
  unfold requestSoftReset
  split
  · exact h
  · split
    next hf =>
      obtain ⟨hd, hi, ⟨w1, -, w3⟩, hr⟩ := (controllerSound_iff s).1 h
      exact (controllerSound_iff _).2 ⟨hd, hi, ⟨w1, fun _ => hf, w3⟩, hr⟩
    next hf =>
      obtain ⟨-, hi, hr, hg⟩ := flightEnded_of_sound h (by simpa using hf)
      exact softReset_sound hi hr hg

theorem requestCancel_frame (s : State) : ControllerFrame s (requestCancel s) := by
  unfold requestCancel
  split
  next j pattern hr =>
    have marked := (ControllerFrame.refl s).running (by simp [hr]) (x := some (.memFill { j with cancel := true } pattern))
      nofun nofun (fun q => { q with running := some (.memFill { j with cancel := true } pattern) }) rfl
    exact .branch (fun _ => .refl s) fun _ => .branch (fun _ => marked) fun _ => marked.endMemCommand _ nofun
  next j crc errors hr =>
    have marked := (ControllerFrame.refl s).running (by simp [hr]) (x := some (.regionCrc { j with cancel := true } crc errors))
      nofun nofun (fun q => { q with running := some (.regionCrc { j with cancel := true } crc errors) }) rfl
    exact .branch (fun _ => .refl s) fun _ => .branch (fun _ => marked) fun _ => marked.endMemCommand _ nofun
  all_goals exact .refl s

theorem writeXenSet_frame (w : Word) (s : State) : ControllerFrame s (writeXenSet w s) := by
  refine (ControllerFrame.refl s).mapPorts fun p hp => ?_
  rw [Quad.get_map]
  split <;> exact hp

theorem writeXenClr_frame (w : Word) (s : State) : ControllerFrame s (writeXenClr w s) := by
  refine (ControllerFrame.refl s).mapPorts fun p hp => ?_
  rw [Quad.get_map]
  split <;> exact hp

theorem writeWinAddrHi_frame (w : Word) (s : State) : ControllerFrame s (writeWinAddrHi w s) := by
  have moved := ((ControllerFrame.refl s).updWin fun x =>
    { x with addr := w.extractLsb' 0 6 ++ x.addr.extractLsb' 0 16 }).discardLatch
  unfold writeWinAddrHi
  dsimp only
  split
  · exact moved.updWin _
  · exact moved.updWin _

theorem writeWinData_frame (w : Word) (s : State) : ControllerFrame s (writeWinData w s) := by
  unfold writeWinData
  split
  · exact (ControllerFrame.refl s).updWin _
  · exact ((ControllerFrame.refl s).updWin _).discardLatch

theorem readWinData_frame (s : State) : ControllerFrame s (readWinData s) := by
  have h := ControllerFrame.refl s
  unfold readWinData
  split
  · dsimp only
    split
    · exact h.updWin _
    · exact (h.updWin _).updWin _
  all_goals exact h.updWin _

theorem writeCfgData_sound {s : State} (w : Word) (h : ControllerSound s) : ControllerSound (writeCfgData w s) := by
  rw [writeCfgData_eq]
  split
  · exact ControllerFrame.sound (s := s) ⟨rfl, rfl, rfl, Iff.rfl, fun _ => id, fun _ => id, .refl _⟩ h
  next hr =>
    have setup : s.sc.device = .setup := by
      simp only [cfgWriteRefused, Bool.or_eq_true, bne_iff_ne, not_or, not_not] at hr
      exact hr.1
    have stored : ControllerSound (cfgStored w s) :=
      ControllerFrame.sound (s := s) ⟨rfl, rfl, rfl, Iff.rfl, fun _ => id, fun _ => id, .refl _⟩ h
    rw [cfgWriteActs_eq]
    split
    · split
      · exact startInit_sound stored setup
      · exact stored
    · split
      · exact ((ControllerFrame.refl _).updTb _).sound stored
      · split
        · split
          · exact stored
          · exact ((ControllerFrame.refl _).openAll).sound stored
        · exact stored

theorem writeRegister_sound {s : State} (off : BitVec 6) (w : Word) (h : ControllerSound s) :
    ControllerSound (writeRegister off w s) := by
  have k := ControllerFrame.refl s
  unfold writeRegister
  split
  · unfold writeDevCtrl
    split
    · exact requestSoftReset_sound h
    · split
      · exact (requestCancel_frame s).sound h
      · exact h
  · exact writeCmd_sound w h
  iterate 8 exact (k.updSeq _ rfl).sound h
  · exact (writeXenSet_frame w s).sound h
  · exact (writeXenClr_frame w s).sound h
  iterate 3 exact (k.updEu _).sound h
  · exact ((k.updWin _).discardLatch).sound h
  · exact (writeWinAddrHi_frame w s).sound h
  · exact (writeWinData_frame w s).sound h
  · exact (k.updWin _).sound h
  · exact ControllerFrame.sound (s := s) ⟨rfl, rfl, rfl, Iff.rfl, fun _ => id, fun _ => id, .refl _⟩ h
  · exact writeCfgData_sound w h
  · exact h

theorem readEffect_frame (off : BitVec 6) (s : State) : ControllerFrame s (readEffect off s) := by
  unfold readEffect
  split
  iterate 2 exact (ControllerFrame.refl s).countReads 1
  · exact (ControllerFrame.refl s).updEu _
  · unfold popEvent
    split
    · exact .refl s
    · exact (ControllerFrame.refl s).updEu _
  · exact readWinData_frame s
  · exact .refl s

theorem driveBus_frame (w : Word) (s : State) : ControllerFrame s (driveBus w s) :=
  ⟨rfl, rfl, rfl, Iff.rfl, fun _ => id, fun _ => id, .refl _⟩

/-! ### Every step -/

theorem event_controllerSound {s u : State} (h : ControllerSound s) (hu : Effect s u) : ControllerSound (settle u) := by
  refine (ControllerFrame.refl u).settle.sound ?_
  rcases hu with rfl | ⟨off, w, -, rfl⟩ | ⟨off, rfl⟩ | rfl | ⟨p, w, m, rfl⟩ | ⟨p, rfl⟩ | ⟨p, rfl⟩ | rfl | ⟨hr, rfl⟩ |
    ⟨p, -, rfl⟩ | ⟨f, v, hf, hv, rfl⟩ | ⟨f, hf, hw, rfl⟩ | rfl | ⟨hd, rfl⟩ | ⟨hf, rfl⟩ | ⟨p, ha, hf, rfl⟩ | ⟨p, rfl⟩
  · exact h
  · exact writeRegister_sound off w h
  · exact ((readEffect_frame off s).trans (driveBus_frame _ _)).sound h
  · exact (driveBus_frame 0 s).sound h
  · exact ((PortWork.refl p s).captureBeat w m).frame.sound h
  · exact ((PortWork.refl p s).replayBeat).frame.sound h
  · exact ((PortWork.refl p s).heldOffer).frame.sound h
  · exact tickSteps_sound h
  · exact riseAtInterval_sound h hr
  · exact ((PortWork.refl p s).declareIdle).frame.sound h
  · exact completion_sound h hf hv
  · exact initStep_sound h hf hw
  · exact arbitrate_sound h
  · exact enterSleep_sound h hd
  · obtain ⟨noGrant, -, noAbort⟩ := no_waiters h hf
    exact deferredReset_sound (flightEnded_of_sound h hf) noGrant noAbort
  · obtain ⟨-, -, noAbort⟩ := no_waiters h hf
    exact absurd ha (noAbort p)
  · exact ((PortWork.refl p s).closeTest).frame.sound h

theorem controllerSound_hardReset (cause : ResetCause) (s : State) : ControllerSound (hardReset cause s) := by
  have closed : AllClosed (hardReset cause s) := fun p => by cases p <;> rfl
  exact (controllerSound_iff _).2 ⟨⟨fun _ => closed, nofun, iff_of_false nofun nofun, iff_of_false nofun nofun, nofun⟩,
    ⟨fun _ => rfl, iff_of_false nofun fun e => e rfl, fun _ => rfl, nofun, nofun⟩, ⟨rfl, nofun, nofun⟩, Nat.zero_le _, nofun,
    fun _ => ⟨rfl, rfl, rfl⟩⟩

/-- Settles O59: the port operations keep what the relations rest on; the controller's own steps are taken in turn. -/
theorem stepKeepsControllerSound : Obligations.StepKeepsControllerSound := by
  intro s t
  refine step_keeps (I := ControllerSound) (fun s l h => h) (fun s _ h => (driveBus_frame 0 s).sound h)
    (fun s cause _ => controllerSound_hardReset cause s) (fun s cause _ => controllerSound_hardReset cause s)
    (fun s _ h => ?_) fun s u _ h hu => event_controllerSound h hu
  obtain ⟨l, n, e⟩ := refclkPeriod_eq s
  exact e ▸ h

end Sys2Proof.Proofs

/-! PROOFS. One port's words in transfer: its queue, FIFO, reserved entries and fetch cursor as one operation after another
leaves them (R67, R68, R77, R78, R97, R107 to R110, R113, R122). -/

namespace Sys2Proof.Proofs

open Sys2Proof.Machine Sys2Proof.Safety Sys2Proof.Laws

/-! ### What is said of one port -/

/-- The entries reserved for a transaction, if there is one. -/
def slotsIn (live : Option Flight) : List Slot := live.elim [] Flight.slots

theorem slotsIn_def (live : Option Flight) : slotsIn live = (live.elim [] Flight.slots) := rfl

/-- R95, R97, of a queue on a port of the direction `d`. -/
def QueueOk (d : Dir) (q : List QEntry) : Prop :=
  (∀ e ∈ q, 1 ≤ e.desc.length ∧ 1 ≤ e.desc.rpt.getD 1 ∧ (d = .capture → e.desc.rpt = none)) ∧
    ∀ h t, q = h :: t → h.progress < wordsOf h.desc ∧ ∀ e ∈ t, e.progress = 0

/-- R77, R78, with the port's transaction in flight. -/
def FifoOk (x : Port) (live : Option Flight) : Prop :=
  x.fifo.length + x.reservation ≤ 64 ∧ x.reservation = (slotsIn live).length ∧
    (x.state = .closed ∨ x.state = .faulted → x.fifo = [])

/-- R67, R68, with the port's transaction in flight. -/
def BurstOk (d : Dir) (x : Port) (live : Option Flight) : Prop :=
  ∀ f, live = some f → 1 ≤ f.count ∧
    (d = .capture → f.kind = .writeBurst ∧ f.slots = [] ∧
      ∃ h t, x.queue = h :: t ∧ h.progress + f.count ≤ h.desc.length) ∧
    (d = .replay → f.kind = .readBurst ∧ f.slots.length = f.count)

/-- The FIFO's words, then the reserved entries, are the words of the queue from word `n` on (R78, R108). -/
def WordsOk (q : List QEntry) (n : Nat) (fifo : List FifoWord) (slots : List Slot) : Prop :=
  (∀ i e, fifo[i]? = some e → ∃ b, e.boundary = some b ∧ wordAt q (n + i) = some b) ∧
    ∀ i sl, slots[i]? = some sl → wordAt q (n + fifo.length + i) = some sl.boundary

/-- The fetch cursor stands on word `n` of the queue, or at tail after the last; the entries before it are started
(R107). -/
def CursorOk (q : List QEntry) (fetch : Option Cursor) (n : Nat) : Prop :=
  (∀ c, fetch = some c → ∃ e, q[c.pos]? = some e ∧ 1 ≤ c.rep ∧ c.rep ≤ e.desc.rpt.getD 1 ∧
    c.off < e.desc.length ∧ wordsBefore q c.pos + (c.rep - 1) * e.desc.length + c.off = n) ∧
  (fetch = none → wordsBefore q q.length = n) ∧
  ∀ i e, q[i]? = some e → (e.started = true ↔ wordsBefore q i < n)

/-- Words of the queue already fetched: emitted, in the FIFO, or reserved. -/
def fetchedIn (x : Port) (live : Option Flight) : Nat := headProgress x + x.fifo.length + (slotsIn live).length

theorem fetchedIn_def (x : Port) (live : Option Flight) : fetchedIn x live =
    (headProgress x + x.fifo.length + (slotsIn live).length) := rfl

/-- A port of direction `d` with the transaction `live` of its own in flight has its words in order. -/
def Transfers (d : Dir) (x : Port) (live : Option Flight) : Prop :=
  QueueOk d x.queue ∧ FifoOk x live ∧ BurstOk d x live ∧
    (d = .replay → WordsOk x.queue (headProgress x) x.fifo (slotsIn live) ∧ CursorOk x.queue x.fetch (fetchedIn x live))

/-- The transaction of port p in flight, orphans apart. -/
def liveOf (s : State) (p : PortId) : Option Flight :=
  s.mc.flight.filter fun f => decide (f.who = .port p) && !f.orphan

theorem liveOf_def (s : State) (p : PortId) : liveOf s p =
    (s.mc.flight.filter fun f => decide (f.who = .port p) && !f.orphan) := rfl

theorem liveOf_eq_some {s : State} {p : PortId} {f : Flight} :
    liveOf s p = some f ↔ s.mc.flight = some f ∧ f.who = .port p ∧ f.orphan = false := by
  simp [liveOf_def, Option.filter_eq_some_iff]

theorem liveSlots_eq (s : State) (p : PortId) : liveSlots s p = slotsIn (liveOf s p) := by
  unfold liveSlots liveOf slotsIn
  cases s.mc.flight with
  | none => rfl
  | some f => by_cases h : f.who = .port p ∧ f.orphan = false <;> simp [h, Option.filter_some]

/-- Port p's words are in order. -/
def TransfersAt (s : State) (p : PortId) : Prop := Transfers (s.pcfg p).dir (s.port p) (liveOf s p)

theorem transfersAt_def (s : State) (p : PortId) : TransfersAt s p =
    (Transfers (s.pcfg p).dir (s.port p) (liveOf s p)) := rfl

theorem transfersSound_iff (s : State) : TransfersSound s ↔ ∀ p, TransfersAt s p := by
  refine forall_congr' fun p => ?_
  have hb : BurstSound s p ↔ BurstOk (s.pcfg p).dir (s.port p) (liveOf s p) := by
    unfold BurstOk
    simp only [BurstSound, liveOf_eq_some, and_imp]
  have hs : StreamSound s p ↔ ((s.pcfg p).dir = .replay →
      WordsOk (s.port p).queue (headProgress (s.port p)) (s.port p).fifo (slotsIn (liveOf s p)) ∧
        CursorOk (s.port p).queue (s.port p).fetch (fetchedIn (s.port p) (liveOf s p))) := by
    unfold WordsOk CursorOk
    simp only [StreamSound, fetchedWords, fetchedIn_def, liveSlots_eq, and_assoc]
  have hf : FifoSound s p ↔ FifoOk (s.port p) (liveOf s p) := by
    unfold FifoOk
    simp only [FifoSound, liveSlots_eq]
  exact and_congr Iff.rfl (and_congr hf (and_congr hb hs))

/-! ### Ports that agree in their words -/

/-- The ports have the same words, and only a CLOSED or FAULTED port becomes one. -/
def SameWords (x y : Port) : Prop :=
  y.queue = x.queue ∧ y.fifo = x.fifo ∧ y.reservation = x.reservation ∧ y.fetch = x.fetch ∧
    (y.state = .closed ∨ y.state = .faulted → x.state = .closed ∨ x.state = .faulted)

theorem headProgress_congr {x y : Port} (h : y.queue = x.queue) : headProgress y = headProgress x := by
  unfold headProgress
  rw [h]

theorem Transfers.congr {d : Dir} {x y : Port} {live : Option Flight} (h : SameWords x y) (hx : Transfers d x live) :
    Transfers d y live := by
  obtain ⟨hq, hf, hr, hc, hs⟩ := h
  unfold Transfers QueueOk FifoOk BurstOk fetchedIn at *
  rw [headProgress_congr hq, hq, hf, hr, hc]
  obtain ⟨h1, ⟨h2, h3, h4⟩, h5⟩ := hx
  exact ⟨h1, ⟨h2, h3, h4 ∘ hs⟩, h5⟩

theorem Transfers.empty (d : Dir) {x : Port} (hq : x.queue = []) (hf : x.fifo = []) (hr : x.reservation = 0)
    (hc : x.fetch = none) : Transfers d x none := by
  have progress : headProgress x = 0 := by simp [headProgress, hq]
  unfold Transfers QueueOk FifoOk BurstOk WordsOk CursorOk
  simp [fetchedIn_def, slotsIn_def, hq, hf, hr, hc, progress]

/-- A transaction in flight needs something queued. -/
theorem Transfers.live_none {d : Dir} {x : Port} {live : Option Flight} (h : Transfers d x live) (hq : x.queue = []) :
    live = none := by
  obtain ⟨-, -, hb, hs⟩ := h
  cases live with
  | none => rfl
  | some f =>
    obtain ⟨hcount, hcap, hrep⟩ := hb f rfl
    cases d with
    | capture =>
      obtain ⟨-, -, e, t, he, -⟩ := hcap rfl
      exact nomatch hq.symm.trans he
    | replay =>
      obtain ⟨⟨-, hslots⟩, -⟩ := hs rfl
      obtain ⟨-, hlen⟩ := hrep rfl
      have first := hslots 0 _ (List.getElem?_eq_getElem (l := slotsIn (some f)) (show 0 < f.slots.length by omega))
      rw [hq] at first
      cases first

/-- On a replay port a transaction in flight has entries reserved. -/
theorem Transfers.live_none_of_reservation {x : Port} {live : Option Flight} (h : Transfers .replay x live)
    (hr : x.reservation = 0) : live = none := by
  obtain ⟨-, ⟨-, hres, -⟩, hb, -⟩ := h
  cases live with
  | none => rfl
  | some f =>
    obtain ⟨hcount, -, hrep⟩ := hb f rfl
    obtain ⟨-, hlen⟩ := hrep rfl
    have : x.reservation = f.slots.length := hres
    omega

theorem Transfers.queueOk {d : Dir} {x : Port} {live : Option Flight} (h : Transfers d x live) : QueueOk d x.queue := h.1

theorem Transfers.fifoOk {d : Dir} {x : Port} {live : Option Flight} (h : Transfers d x live) : FifoOk x live := h.2.1

theorem Transfers.wordsOk {x : Port} {live : Option Flight} (h : Transfers .replay x live) :
    WordsOk x.queue (headProgress x) x.fifo (slotsIn live) := (h.2.2.2 rfl).1

theorem Transfers.cursorOk {x : Port} {live : Option Flight} (h : Transfers .replay x live) :
    CursorOk x.queue x.fetch (fetchedIn x live) := (h.2.2.2 rfl).2

/-- With nothing in flight, on a capture port: the queue, the fill, and no reservation. -/
theorem transfers_capture {x : Port} (hq : QueueOk .capture x.queue) (hf : x.fifo.length ≤ 64) (hr : x.reservation = 0)
    (hs : x.state = .closed ∨ x.state = .faulted → x.fifo = []) : Transfers .capture x none :=
  ⟨hq, ⟨by omega, hr, hs⟩, nofun, nofun⟩

/-- With nothing in flight, on a replay port. -/
theorem transfers_replay {x : Port} (hq : QueueOk .replay x.queue) (hf : x.fifo.length ≤ 64) (hr : x.reservation = 0)
    (hs : x.state = .closed ∨ x.state = .faulted → x.fifo = []) (hw : WordsOk x.queue (headProgress x) x.fifo [])
    (hc : CursorOk x.queue x.fetch (headProgress x + x.fifo.length)) : Transfers .replay x none :=
  ⟨hq, ⟨by omega, hr, hs⟩, nofun, fun _ => ⟨hw, hc⟩⟩

/-! ### The words of a queue -/

theorem wordsOf_pos {d : Dir} {q : List QEntry} (h : QueueOk d q) {e : QEntry} (he : e ∈ q) : 1 ≤ wordsOf e.desc := by
  obtain ⟨hl, hr, -⟩ := h.1 e he
  exact Nat.mul_pos hl hr

theorem wordsOf_capture {q : List QEntry} (h : QueueOk .capture q) {e : QEntry} (he : e ∈ q) :
    wordsOf e.desc = e.desc.length := by
  obtain ⟨-, -, hr⟩ := h.1 e he
  simp [wordsOf, hr rfl]

/-- Word `m` of entry `i`. -/
theorem wordAt_entry {q : List QEntry} {i m : Nat} {e : QEntry} (he : q[i]? = some e) (hm : m < wordsOf e.desc) :
    wordAt q (wordsBefore q i + m) = some
      { desc := e.desc
        rep := m / e.desc.length + 1
        index := m % e.desc.length
        final := decide (m + 1 = wordsOf e.desc) } := by
  induction q generalizing i with
  | nil => cases he
  | cons a t ih =>
    cases i with
    | zero =>
      obtain rfl := Option.some.inj he
      rw [wordsBefore_zero, Nat.zero_add, wordAt_head t hm]
    | succ i =>
      rw [wordsBefore_cons_succ, Nat.add_assoc, wordAt_past_head]
      exact ih he

theorem CursorOk.le {q : List QEntry} {fetch : Option Cursor} {n : Nat} (h : CursorOk q fetch n) :
    n ≤ wordsBefore q q.length := by
  obtain ⟨hsome, hnone, -⟩ := h
  cases hf : fetch with
  | none => exact (hnone hf).ge
  | some c =>
    obtain ⟨e, he, hr1, hr2, hoff, hn⟩ := hsome c hf
    have hlen : c.pos < q.length := (List.getElem?_eq_some_iff.1 he).1
    have hpast := wordsBefore_mono q (show c.pos + 1 ≤ q.length from hlen)
    rw [wordsBefore_succ he] at hpast
    have hmul : (c.rep - 1) * e.desc.length + e.desc.length ≤ wordsOf e.desc := by
      unfold wordsOf
      rw [Nat.mul_comm, ← Nat.mul_succ]
      exact Nat.mul_le_mul_left _ (by omega)
    omega

/-! ### The head leaves, an entry joins -/

theorem QueueOk.tail {d : Dir} {h : QEntry} {t : List QEntry} (ok : QueueOk d (h :: t)) : QueueOk d t := by
  obtain ⟨hall, hhead⟩ := ok
  have rest (e : QEntry) (he : e ∈ t) := (hhead h t rfl).2 e he
  refine ⟨fun e he => hall e (List.mem_cons_of_mem _ he), fun k r hk => ?_⟩
  have hmem : k ∈ t := by simp [hk]
  obtain ⟨hl, hr, -⟩ := hall k (List.mem_cons_of_mem _ hmem)
  refine ⟨?_, fun e he => rest e (by simp [hk, he])⟩
  rw [rest k hmem]
  exact Nat.mul_pos hl hr

/-- What a descriptor needs to join a queue (R95). -/
def DescOk (d : Dir) (x : Desc) : Prop := 1 ≤ x.length ∧ 1 ≤ x.rpt.getD 1 ∧ (d = .capture → x.rpt = none)

theorem QueueOk.append {d : Dir} {q : List QEntry} (ok : QueueOk d q) {x : Desc} (hx : DescOk d x) :
    QueueOk d (q ++ [{ desc := x }]) := by
  obtain ⟨hall, hhead⟩ := ok
  refine ⟨fun e he => ?_, fun k r hk => ?_⟩
  · rcases List.mem_append.1 he with he | he
    · exact hall e he
    · obtain rfl := List.mem_singleton.1 he
      exact hx
  · cases q with
    | nil =>
      obtain ⟨rfl, rfl⟩ := List.cons.inj hk
      exact ⟨Nat.mul_pos hx.1 hx.2.1, nofun⟩
    | cons a t =>
      obtain ⟨rfl, rfl⟩ := List.cons.inj hk
      obtain ⟨hlt, hrest⟩ := hhead a t rfl
      refine ⟨hlt, fun e he => ?_⟩
      rcases List.mem_append.1 he with he | he
      · exact hrest e he
      · rw [List.mem_singleton.1 he]

theorem QueueOk.advance {d : Dir} {h : QEntry} {t : List QEntry} (ok : QueueOk d (h :: t)) {n : Nat}
    (hn : n < wordsOf h.desc) : QueueOk d ({ h with progress := n } :: t) := by
  obtain ⟨hall, hhead⟩ := ok
  refine ⟨fun e he => ?_, fun k r hk => ?_⟩
  · rcases List.mem_cons.1 he with rfl | he
    · exact hall h (List.mem_cons_self)
    · exact hall e (List.mem_cons_of_mem _ he)
  · obtain ⟨rfl, rfl⟩ := List.cons.inj hk
    exact ⟨hn, (hhead h _ rfl).2⟩

theorem WordsOk.congr {q r : List QEntry} (h : q.map (·.desc) = r.map (·.desc)) {n : Nat} {fifo : List FifoWord}
    {slots : List Slot} (ok : WordsOk q n fifo slots) : WordsOk r n fifo slots := by
  unfold WordsOk at ok ⊢
  simpa only [wordAt_congr h] using ok

theorem WordsOk.append {q : List QEntry} (r : List QEntry) {n : Nat} {fifo : List FifoWord} {slots : List Slot}
    (ok : WordsOk q n fifo slots) : WordsOk (q ++ r) n fifo slots := by
  have kept {m : Nat} {b : Boundary} (hb : wordAt q m = some b) : wordAt (q ++ r) m = some b := by
    rwa [wordAt_append r ((wordAt_isSome_iff q m).1 (by simp [hb]))]
  refine ⟨fun i e he => ?_, fun i sl hs => kept (ok.2 i sl hs)⟩
  obtain ⟨b, hb, hw⟩ := ok.1 i e he
  exact ⟨b, hb, kept hw⟩

theorem WordsOk.tail {h : QEntry} {t : List QEntry} {fifo : List FifoWord} {slots : List Slot}
    (ok : WordsOk (h :: t) (wordsOf h.desc) fifo slots) : WordsOk t 0 fifo slots := by
  refine ⟨fun i e he => ?_, fun i sl hs => ?_⟩
  · obtain ⟨b, hb, hw⟩ := ok.1 i e he
    rw [wordAt_past_head] at hw
    exact ⟨b, hb, by rwa [Nat.zero_add]⟩
  · have hw := ok.2 i sl hs
    rwa [Nat.add_assoc, wordAt_past_head, ← Nat.zero_add fifo.length] at hw

theorem WordsOk.pop {q : List QEntry} {n : Nat} {e : FifoWord} {rest : List FifoWord} {slots : List Slot}
    (ok : WordsOk q n (e :: rest) slots) : WordsOk q (n + 1) rest slots := by
  refine ⟨fun i e he => ?_, fun i sl hs => ?_⟩
  · have := ok.1 (i + 1) e (by simpa using he)
    rwa [show n + 1 + i = n + (i + 1) by omega]
  · have := ok.2 i sl hs
    rwa [List.length_cons, ← Nat.add_assoc, Nat.add_right_comm n] at this

theorem CursorOk.congr {q r : List QEntry} (h : q.map (fun e => (e.desc, e.started)) = r.map (fun e => (e.desc, e.started)))
    {fetch : Option Cursor} {n : Nat} (ok : CursorOk q fetch n) : CursorOk r fetch n := by
  have hlen : q.length = r.length := by simpa using congrArg List.length h
  have hdesc : q.map (·.desc) = r.map (·.desc) := by
    simpa [Function.comp_def] using congrArg (List.map Prod.fst) h
  have at_same (i : Nat) : (q[i]?).map (fun e => (e.desc, e.started)) = (r[i]?).map fun e => (e.desc, e.started) := by
    simpa using congrArg (·[i]?) h
  obtain ⟨h1, h2, h3⟩ := ok
  refine ⟨fun c hc => ?_, fun hn => ?_, fun i e he => ?_⟩
  · obtain ⟨e, he, hrest⟩ := h1 c hc
    have same := at_same c.pos
    rw [he] at same
    obtain ⟨k, hk, hke⟩ := Option.map_eq_some_iff.1 same.symm
    have hd : k.desc = e.desc := congrArg Prod.fst hke
    exact ⟨k, hk, by rwa [hd, ← wordsBefore_congr hdesc]⟩
  · rw [← wordsBefore_congr hdesc, ← hlen]
    exact h2 hn
  · have same := at_same i
    rw [he] at same
    obtain ⟨k, hk, hke⟩ := Option.map_eq_some_iff.1 same
    have hs : k.started = e.started := congrArg Prod.snd hke
    rw [← hs, ← wordsBefore_congr hdesc]
    exact h3 i k hk

theorem CursorOk.tail {h : QEntry} {t : List QEntry} {fetch : Option Cursor} {n : Nat}
    (ok : CursorOk (h :: t) fetch (wordsOf h.desc + n)) :
    CursorOk t (fetch.map fun c => { c with pos := c.pos - 1 }) n := by
  obtain ⟨h1, h2, h3⟩ := ok
  refine ⟨fun c hc => ?_, fun hn => ?_, fun i e he => ?_⟩
  · obtain ⟨a, ha, rfl⟩ := Option.map_eq_some_iff.1 hc
    obtain ⟨e, he, hr1, hr2, hoff, hsum⟩ := h1 a ha
    obtain ⟨pos, rep, off⟩ := a
    cases pos with
    | zero =>
      obtain rfl := Option.some.inj he
      have hmul : (rep - 1) * h.desc.length + h.desc.length ≤ wordsOf h.desc := by
        unfold wordsOf
        rw [Nat.mul_comm, ← Nat.mul_succ]
        exact Nat.mul_le_mul_left _ (by simp only at hr1 hr2; omega)
      simp only [wordsBefore_zero] at hsum hoff
      omega
    | succ i =>
      simp only [wordsBefore_cons_succ] at hsum
      exact ⟨e, he, hr1, hr2, hoff, by simp only [Nat.add_sub_cancel] at hsum ⊢; omega⟩
  · have := h2 (by simpa using hn)
    rw [List.length_cons, wordsBefore_cons_succ] at this
    omega
  · have := h3 (i + 1) e (by simpa using he)
    rw [wordsBefore_cons_succ] at this
    rw [this]
    omega

theorem CursorOk.append {q : List QEntry} {fetch : Option Cursor} {n : Nat} (ok : CursorOk q fetch n) {x : Desc}
    (hl : 1 ≤ x.length) (hr : 1 ≤ x.rpt.getD 1) :
    CursorOk (q ++ [{ desc := x }]) (if fetch = none then some ⟨q.length, 1, 0⟩ else fetch) n := by
  have le := ok.le
  obtain ⟨h1, h2, h3⟩ := ok
  have last : (q ++ [{ desc := x }])[q.length]? = some ({ desc := x } : QEntry) := by simp
  have old {i : Nat} (hi : i < q.length) : (q ++ [({ desc := x } : QEntry)])[i]? = q[i]? := List.getElem?_append_left hi
  refine ⟨fun c hc => ?_, fun hn => ?_, fun i e he => ?_⟩
  · by_cases hf : fetch = none
    · rw [if_pos hf] at hc
      obtain rfl := Option.some.inj hc
      refine ⟨_, last, le_rfl, hr, hl, ?_⟩
      rw [wordsBefore_append le_rfl, h2 hf]
      simp
    · rw [if_neg hf] at hc
      obtain ⟨e, he, hrest⟩ := h1 c hc
      have hi : c.pos < q.length := (List.getElem?_eq_some_iff.1 he).1
      exact ⟨e, (old hi).trans he, by rwa [wordsBefore_append hi.le]⟩
  · split at hn
    · cases hn
    next hf => exact absurd hn hf
  · by_cases hi : i < q.length
    · rw [wordsBefore_append hi.le]
      exact h3 i e ((old hi).symm.trans he)
    · have hlast : i = q.length := by
        have := (List.getElem?_eq_some_iff.1 he).1
        simp only [List.length_append, List.length_singleton] at this
        omega
      subst hlast
      obtain rfl := Option.some.inj (last.symm.trans he)
      rw [wordsBefore_append le_rfl]
      exact iff_of_false nofun (by omega)

/-! ### The head's DONE (R106, R113) -/

/-- A descriptor joins the tail (R99, R121). -/
theorem Transfers.append {d : Dir} {x : Port} {live : Option Flight} (h : Transfers d x live) {c : Desc} (hc : DescOk d c) :
    Transfers d (x.append d c) live := by
  have progress : headProgress (x.append d c) = headProgress x := by
    unfold headProgress Port.append
    cases x.queue <;> rfl
  obtain ⟨hq, hf, hb, hs⟩ := h
  refine ⟨hq.append hc, hf, fun f hl => ?_, fun hd => ?_⟩
  · obtain ⟨h1, h2, h3⟩ := hb f hl
    refine ⟨h1, fun e => ?_, h3⟩
    obtain ⟨hk, hsl, a, t, ha, hle⟩ := h2 e
    exact ⟨hk, hsl, a, t ++ [{ desc := c }], by simp [Port.append, ha], hle⟩
  · subst hd
    obtain ⟨hw, hcur⟩ := hs rfl
    have := hcur.append hc.1 hc.2.1
    refine ⟨progress.symm ▸ hw.append _, ?_⟩
    rw [fetchedIn_def, progress]
    simpa [Port.append, fetchedIn_def] using this

/-- The head leaves, all its words moved. -/
theorem transfers_dropHead {d : Dir} {x : Port} {h k : QEntry} {t : List QEntry} {live : Option Flight}
    (hq : x.queue = k :: t) (hk : k.desc = h.desc) (ok : QueueOk d (h :: t)) (hf : FifoOk x live) (hb : BurstOk d x live)
    (hl : d = .capture → live = none)
    (hs : d = .replay → WordsOk x.queue (wordsOf h.desc) x.fifo (slotsIn live) ∧
      CursorOk x.queue x.fetch (wordsOf h.desc + x.fifo.length + (slotsIn live).length)) :
    Transfers d x.dropHead live := by
  have progress : headProgress x.dropHead = 0 := by
    unfold headProgress Port.dropHead
    simp only [hq, List.tail_cons]
    cases t with
    | nil => rfl
    | cons e r => exact (ok.2 h _ rfl).2 e (by simp)
  have hqueue : x.dropHead.queue = t := by simp [Port.dropHead, hq]
  refine ⟨hqueue ▸ ok.tail, hf, fun f hl' => ?_, fun hd => ?_⟩
  · obtain ⟨h1, -, h3⟩ := hb f hl'
    refine ⟨h1, fun e => ?_, h3⟩
    rw [hl e] at hl'
    cases hl'
  · obtain ⟨hw, hc⟩ := hs hd
    rw [hq, ← hk] at hw hc
    rw [fetchedIn_def, progress, hqueue, Nat.zero_add]
    exact ⟨hw.tail, (by rwa [Nat.add_assoc] at hc : CursorOk (k :: t) x.fetch (wordsOf k.desc + _)).tail⟩

theorem sameWords_idleIfEmpty (x : Port) : SameWords x x.idleIfEmpty := by
  unfold Port.idleIfEmpty
  split
  next h => exact ⟨rfl, rfl, rfl, rfl, fun e => by simp [Port.enterIdle] at e⟩
  · exact ⟨rfl, rfl, rfl, rfl, id⟩

theorem transfers_doneWith {d : Dir} {x : Port} {h k : QEntry} {t : List QEntry} {live : Option Flight}
    (hq : x.queue = k :: t) (hk : k.desc = h.desc) (ok : QueueOk d (h :: t)) (hf : FifoOk x live) (hb : BurstOk d x live)
    (hl : d = .capture → live = none)
    (hs : d = .replay → WordsOk x.queue (wordsOf h.desc) x.fifo (slotsIn live) ∧
      CursorOk x.queue x.fetch (wordsOf h.desc + x.fifo.length + (slotsIn live).length)) :
    Transfers d (Port.doneWith d h.desc x) live := by
  have dropped := transfers_dropHead hq hk ok hf hb hl hs
  have stopped : Transfers d ((if h.desc.stop then fun y : Port => { y with xen := false } else id) x.dropHead) live := by
    split
    · exact dropped.congr ⟨rfl, rfl, rfl, rfl, id⟩
    · exact dropped
  refine Transfers.congr (sameWords_idleIfEmpty _) ?_
  split
  · exact stopped.append (ok.1 h List.mem_cons_self)
  · exact stopped

/-! ### An emission (R86, R112, R113) -/

theorem wordAt_nil (n : Nat) : wordAt [] n = none := rfl

/-- The word at the front of a replay FIFO is the next of the head's: it ends the head exactly when it is final. -/
theorem Transfers.front {x : Port} {live : Option Flight} (h : Transfers .replay x live) {e : FifoWord}
    {rest : List FifoWord} (hf : x.fifo = e :: rest) :
    ∃ k t b, x.queue = k :: t ∧ e.boundary = some b ∧ k.progress < wordsOf k.desc ∧
      (b.final = true ↔ k.progress + 1 = wordsOf k.desc) := by
  obtain ⟨b, hb, hw⟩ := h.wordsOk.1 0 e (by simp [hf])
  cases hq : x.queue with
  | nil =>
    rw [hq, wordAt_nil] at hw
    cases hw
  | cons k t =>
    obtain ⟨hlt, -⟩ := h.queueOk.2 k t hq
    have progress : headProgress x = k.progress := by simp [headProgress, hq]
    rw [hq, progress, Nat.add_zero, wordAt_head t hlt] at hw
    obtain rfl := Option.some.inj hw
    exact ⟨k, t, _, rfl, hb, hlt, by simp⟩

/-- The head after its progress has risen, the rest as it was. -/
theorem map_desc_advance (k : QEntry) (n : Nat) (t : List QEntry) :
    (({ k with progress := n } : QEntry) :: t).map (fun e => (e.desc, e.started)) =
      (k :: t).map fun e => (e.desc, e.started) := rfl

/-- Port p after the word at the front of its FIFO has left (R112, R113). -/
def Port.emitted (final : Bool) (d : Desc) (x : Port) : Port :=
  if final then Port.doneWith .replay d (({ x with fifo := x.fifo.tail } : Port).advance 1)
  else ({ x with fifo := x.fifo.tail } : Port).advance 1

theorem transfers_emitted {x : Port} {live : Option Flight} (h : Transfers .replay x live) {e : FifoWord}
    {rest : List FifoWord} (hf : x.fifo = e :: rest) {k : QEntry} {t : List QEntry} (hq : x.queue = k :: t) {final : Bool}
    (hlt : k.progress < wordsOf k.desc) (hfinal : final = true ↔ k.progress + 1 = wordsOf k.desc) :
    Transfers .replay (Port.emitted final k.desc x) live := by
  have progress : headProgress x = k.progress := by simp [headProgress, hq]
  have hy : ({ x with fifo := x.fifo.tail } : Port).advance 1 =
      { x with fifo := rest, queue := { k with progress := k.progress + 1 } :: t } := by
    simp [Port.advance, hq, hf]
  obtain ⟨hqok, ⟨h64, hres, hclosed⟩, hb, -⟩ := id h
  have hwords := h.wordsOk
  have hcur := h.cursorOk
  rw [fetchedIn_def, progress, hf, List.length_cons] at hcur
  rw [progress, hf] at hwords
  have hwords' : WordsOk ({ k with progress := k.progress + 1 } :: t) (k.progress + 1) rest (slotsIn live) :=
    (hq ▸ hwords.pop).congr rfl
  have hcur' : CursorOk ({ k with progress := k.progress + 1 } :: t) x.fetch (k.progress + 1 + rest.length + (slotsIn live).length) := by
    rw [show k.progress + 1 + rest.length = k.progress + (rest.length + 1) by omega]
    exact CursorOk.congr (map_desc_advance k _ t).symm (hq ▸ hcur)
  have fifoOk : FifoOk { x with fifo := rest, queue := { k with progress := k.progress + 1 } :: t } live := by
    rw [hf, List.length_cons] at h64
    exact ⟨by simp only; omega, hres, fun hs => nomatch hf.symm.trans (hclosed hs)⟩
  have burstOk : BurstOk .replay { x with fifo := rest, queue := { k with progress := k.progress + 1 } :: t } live :=
    fun f hl => ⟨(hb f hl).1, nofun, (hb f hl).2.2⟩
  unfold Port.emitted
  rw [hy]
  split
  next hfin =>
    have total := hfinal.1 hfin
    exact transfers_doneWith (h := k) rfl rfl (hq ▸ hqok) fifoOk burstOk nofun fun _ => ⟨total ▸ hwords', total ▸ hcur'⟩
  next hfin =>
    have more : k.progress + 1 < wordsOf k.desc := by
      have : ¬ k.progress + 1 = wordsOf k.desc := fun e => hfin (hfinal.2 e)
      omega
    exact ⟨(hq ▸ hqok : QueueOk .replay (k :: t)).advance more, fifoOk, burstOk, fun _ => ⟨hwords', hcur'⟩⟩

/-! ### A capture burst's words (R103, R106) -/

theorem sameWords_logMarks (tag : Byte) (index addr : Nat) (ws : List FifoWord) (x : Port) :
    SameWords x (x.logMarks tag index addr ws) := by
  obtain ⟨m, o, h⟩ := logMarks_frame tag index addr ws x
  rw [h]
  exact ⟨rfl, rfl, rfl, rfl, id⟩

/-- On a capture port the head's progress has risen by the burst's words, and the head is done or not. -/
theorem transfers_captured {x : Port} {f : Flight} (h : Transfers .capture x (some f)) {k : QEntry} {t : List QEntry}
    (hq : x.queue = k :: t) (done : Bool) (hdone : k.progress + f.count = k.desc.length → done = true) {y : Port}
    (hy : SameWords (x.advance f.count) y) :
    Transfers .capture (if done then Port.doneWith .capture k.desc y else y) none := by
  obtain ⟨hqok, ⟨h64, hres, hclosed⟩, hb, -⟩ := h
  obtain ⟨-, hcap, -⟩ := hb f rfl
  obtain ⟨-, hslots, k', t', hq', hle⟩ := hcap rfl
  obtain ⟨rfl, rfl⟩ := List.cons.inj (hq.symm.trans hq')
  have noSlots : x.reservation = 0 := by rw [hres, slotsIn_def, Option.elim_some, hslots]; rfl
  rw [advance_eq f.count hq] at hy
  obtain ⟨yq, yf, yr, -, ys⟩ := hy
  have fifoOk : FifoOk y none := by
    refine ⟨by rw [yf, yr]; exact h64, yr.trans noSlots, fun e => ?_⟩
    rw [yf]
    exact hclosed (ys e)
  have qok : QueueOk .capture (k :: t) := hq ▸ hqok
  split
  next hd => exact transfers_doneWith (h := k) yq rfl qok fifoOk nofun (fun _ => rfl) nofun
  next hd =>
    refine ⟨?_, fifoOk, nofun, nofun⟩
    rw [yq]
    refine qok.advance ?_
    rw [wordsOf_capture qok List.mem_cons_self]
    have : ¬ k.progress + f.count = k.desc.length := fun e => hd (hdone e)
    omega

/-! ### A replay burst's words (R110) -/

theorem transfers_placed {x : Port} {f : Flight} (h : Transfers .replay x (some f)) {ws : List MemWord}
    (hw : ws.length = f.count) (hs : x.state ≠ .closed ∧ x.state ≠ .faulted) :
    Transfers .replay (x.place f.slots ws) none := by
  have hwords := h.wordsOk
  have hcur := h.cursorOk
  obtain ⟨hqok, ⟨h64, hres, -⟩, hb, -⟩ := h
  obtain ⟨-, -, hrep⟩ := hb f rfl
  obtain ⟨-, hlen⟩ := hrep rfl
  have hslots : slotsIn (some f) = f.slots := rfl
  rw [hslots] at hwords hres
  rw [fetchedIn_def, hslots] at hcur
  have hfill : (x.place f.slots ws).fifo.length = x.fifo.length + f.slots.length := by
    simp [Port.place, hw, hlen]
  refine transfers_replay hqok (by rw [hfill]; omega) rfl (fun e => ?_) ⟨fun i e he => ?_, nofun⟩ ?_
  · rcases e with e | e
    · exact absurd e hs.1
    · exact absurd e hs.2
  · by_cases hi : i < x.fifo.length
    · exact hwords.1 i e ((List.getElem?_append_left hi).symm.trans he)
    · have hin := (List.getElem?_append_right (not_lt.1 hi)).symm.trans he
      obtain ⟨sl, m, hsl, -, rfl⟩ := List.getElem?_zipWith_eq_some.1 hin
      refine ⟨sl.boundary, rfl, ?_⟩
      have := hwords.2 _ sl hsl
      rwa [show headProgress x + x.fifo.length + (i - x.fifo.length) = headProgress x + i by omega] at this
  · have : headProgress (x.place f.slots ws) = headProgress x := rfl
    rw [this, hfill, ← Nat.add_assoc]
    exact hcur

/-! ### Grants (R67, R68, R108) -/

theorem toFirstMark_pos {l : List FifoWord} {n : Nat} (h : toFirstMark l = some n) : 1 ≤ n := by
  cases l with
  | nil => cases h
  | cons e es =>
    rw [toFirstMark] at h
    split at h
    · exact (Option.some.inj h).le
    · obtain ⟨m, -, rfl⟩ := Option.map_eq_some_iff.1 h
      omega

theorem burst_pos (k : PortCfg) : 1 ≤ k.burst := by
  unfold PortCfg.burst
  split <;> norm_num

theorem captureCount_bounds (k : PortCfg) {x : Port} {h : QEntry} (hf : 1 ≤ x.fifo.length) (hr : 1 ≤ h.remaining) :
    1 ≤ captureCount k x h ∧ captureCount k x h ≤ h.remaining := by
  have hb := burst_pos k
  unfold captureCount
  dsimp only
  split
  next m hm =>
    have : 1 ≤ m := by
      split at hm
      · exact toFirstMark_pos hm
      · cases hm
    omega
  · omega

/-- A capture grant takes its words out of the FIFO; the transaction is of words the head still lacks. -/
theorem transfers_grantCapture {k : PortCfg} {x : Port} (h : Transfers .capture x none) {e : QEntry} {t : List QEntry}
    (hq : x.queue = e :: t) (hf : 1 ≤ x.fifo.length) {f : Flight} (hk : f.kind = .writeBurst) (hs : f.slots = [])
    (hc : f.count = captureCount k x e) : Transfers .capture { x with fifo := x.fifo.drop (captureCount k x e) } (some f) := by
  obtain ⟨hqok, ⟨h64, hres, hclosed⟩, -, -⟩ := h
  have hlt := (hqok.2 e t hq).1
  rw [wordsOf_capture hqok (by simp [hq])] at hlt
  have hrem : 1 ≤ e.remaining := by
    unfold QEntry.remaining
    omega
  obtain ⟨hpos, hle⟩ := captureCount_bounds k hf hrem
  refine ⟨hqok, ⟨?_, hres.trans (by simp [slotsIn_def, hs]), fun e => ?_⟩, fun g hg => ?_, nofun⟩
  · simp only [List.length_drop]
    omega
  · simp [hclosed e]
  · obtain rfl := Option.some.inj hg
    refine ⟨hc ▸ hpos, fun _ => ⟨hk, hs, e, t, hq, ?_⟩, nofun⟩
    rw [hc]
    unfold QEntry.remaining at hle
    omega

/-- The words of a repetition of entry `c.pos`, from the cursor on. -/
theorem cursor_room {c : Cursor} {e : QEntry} (hr1 : 1 ≤ c.rep) (hr2 : c.rep ≤ e.desc.rpt.getD 1) :
    (c.rep - 1) * e.desc.length + e.desc.length ≤ wordsOf e.desc := by
  unfold wordsOf
  rw [Nat.mul_comm, ← Nat.mul_succ]
  exact Nat.mul_le_mul_left _ (by omega)

/-- The `i`th entry reserved is the `i`th word from the cursor on (R108). -/
theorem slotsOf_getElem {q : List QEntry} {c : Cursor} {e : QEntry} (he : q[c.pos]? = some e) (hr1 : 1 ≤ c.rep)
    (hr2 : c.rep ≤ e.desc.rpt.getD 1) {n i : Nat} (hn : c.off + n ≤ e.desc.length) {sl : Slot}
    (hs : (slotsOf e.desc c n)[i]? = some sl) :
    wordAt q (wordsBefore q c.pos + ((c.rep - 1) * e.desc.length + c.off + i)) = some sl.boundary := by
  have hi : i < n := by
    have := (List.getElem?_eq_some_iff.1 hs).1
    simpa [slotsOf] using this
  have room := cursor_room (e := e) hr1 hr2
  have hm : (c.rep - 1) * e.desc.length + c.off + i < wordsOf e.desc := by omega
  rw [wordAt_entry he hm]
  simp only [slotsOf, List.getElem?_map, List.getElem?_range hi, Option.map_some, Option.some.injEq] at hs
  subst hs
  have hlen : 0 < e.desc.length := by omega
  have hdiv : ((c.rep - 1) * e.desc.length + c.off + i) / e.desc.length + 1 = c.rep := by
    rw [Nat.add_assoc, Nat.mul_comm, Nat.mul_add_div hlen, Nat.div_eq_of_lt (by omega)]
    omega
  have hmod : ((c.rep - 1) * e.desc.length + c.off + i) % e.desc.length = c.off + i := by
    rw [Nat.add_assoc, Nat.mul_comm, Nat.mul_add_mod, Nat.mod_eq_of_lt (by omega)]
  have hfin : decide ((c.rep - 1) * e.desc.length + c.off + i + 1 = wordsOf e.desc) =
      (c.rep == e.desc.repeats && c.off + i == e.desc.length - 1) := by
    rw [Bool.eq_iff_iff]
    simp only [decide_eq_true_eq, Bool.and_eq_true, beq_iff_eq, Desc.repeats]
    refine ⟨fun hsum => ?_, fun ⟨h1, h2⟩ => ?_⟩
    · have hrep : c.rep = e.desc.rpt.getD 1 := by
        by_contra hne
        have : (c.rep - 1) * e.desc.length + e.desc.length + e.desc.length ≤ wordsOf e.desc := by
          unfold wordsOf
          rw [Nat.mul_comm, ← Nat.mul_succ, ← Nat.mul_succ]
          exact Nat.mul_le_mul_left _ (by omega)
        omega
      refine ⟨hrep, ?_⟩
      have : (c.rep - 1) * e.desc.length + e.desc.length = wordsOf e.desc := by
        unfold wordsOf
        rw [← hrep, Nat.mul_comm, ← Nat.mul_succ, Nat.succ_eq_add_one, Nat.sub_add_cancel hr1]
      omega
    · have : (c.rep - 1) * e.desc.length + e.desc.length = wordsOf e.desc := by
        unfold wordsOf
        rw [← h1, Nat.mul_comm, ← Nat.mul_succ, Nat.succ_eq_add_one, Nat.sub_add_cancel hr1]
      omega
  rw [hdiv, hmod, hfin]

theorem map_desc_set {q : List QEntry} {i : Nat} {e : QEntry} (he : q[i]? = some e) :
    (q.set i { e with started := true }).map (·.desc) = q.map (·.desc) := by
  obtain ⟨hi, rfl⟩ := List.getElem?_eq_some_iff.1 he
  have self := List.set_getElem_self (as := q.map (·.desc)) (i := i) (by simpa using hi)
  rw [List.getElem_map] at self
  rwa [List.map_set]

/-- Where the cursor stands after a grant of `n` words (R107). -/
theorem CursorOk.moved {q : List QEntry} {c : Cursor} {n m : Nat} (ok : CursorOk q (some c) m) {e : QEntry}
    (he : q[c.pos]? = some e) (hn : 1 ≤ n) (hle : c.off + n ≤ e.desc.length) (pos : ∀ e ∈ q, 1 ≤ e.desc.length ∧ 1 ≤ e.desc.rpt.getD 1) :
    CursorOk (q.set c.pos { e with started := true }) (moveCursor q.length e.desc c n) (m + n) := by
  obtain ⟨hcur, -, hstarted⟩ := ok
  obtain ⟨e', he', hr1, hr2, hoff, hm⟩ := hcur c rfl
  obtain rfl := Option.some.inj (he.symm.trans he')
  have hlt : c.pos < q.length := (List.getElem?_eq_some_iff.1 he).1
  have room := cursor_room (e := e) hr1 hr2
  have same := fun i => wordsBefore_congr (map_desc_set he) i
  have len : (q.set c.pos { e with started := true }).length = q.length := List.length_set
  have past := wordsBefore_succ he
  have whole (hrep : c.rep = e.desc.rpt.getD 1) : (c.rep - 1) * e.desc.length + e.desc.length = wordsOf e.desc := by
    unfold wordsOf
    rw [← hrep, Nat.mul_comm, ← Nat.mul_succ, Nat.succ_eq_add_one, Nat.sub_add_cancel hr1]
  have atPos : (q.set c.pos { e with started := true })[c.pos]? = some { e with started := true } := by simp [hlt]
  refine ⟨fun d hd => ?_, fun hd => ?_, fun i a ha => ?_⟩
  · simp only [same]
    unfold moveCursor at hd
    split at hd
    next hin =>
      obtain rfl := Option.some.inj hd
      exact ⟨_, atPos, hr1, hr2, hin, by simp only; omega⟩
    next hout =>
      split at hd
      next hrep =>
        obtain rfl := Option.some.inj hd
        refine ⟨_, atPos, by simp, hrep, by simp only; omega, ?_⟩
        have : (c.rep + 1 - 1) * e.desc.length = (c.rep - 1) * e.desc.length + e.desc.length := by
          rw [Nat.add_sub_cancel, Nat.mul_comm, Nat.mul_comm (c.rep - 1), ← Nat.mul_succ, Nat.succ_eq_add_one,
            Nat.sub_add_cancel hr1]
        simp only at *
        omega
      next hrep =>
        have hfull := whole (le_antisymm hr2 (not_lt.1 hrep))
        split at hd
        next hnext =>
          obtain rfl := Option.some.inj hd
          have hget : q[c.pos + 1]? = some q[c.pos + 1] := List.getElem?_eq_getElem hnext
          obtain ⟨hl, hr⟩ := pos _ (List.getElem_mem hnext)
          refine ⟨q[c.pos + 1], ?_, le_rfl, hr, hl, ?_⟩
          · exact (List.getElem?_set_ne (Nat.ne_of_lt (Nat.lt_succ_self c.pos))).trans hget
          · simp only [Nat.sub_self, Nat.zero_mul, Nat.add_zero]
            omega
        · cases hd
  · rw [same, len]
    unfold moveCursor at hd
    split at hd
    · cases hd
    next hout =>
      split at hd
      · cases hd
      next hrep =>
        have hfull := whole (le_antisymm hr2 (not_lt.1 hrep))
        split at hd
        · cases hd
        next hnext =>
          have : q.length = c.pos + 1 := by omega
          rw [this]
          omega
  · rw [same]
    by_cases hi : i = c.pos
    · subst hi
      obtain rfl := Option.some.inj (atPos.symm.trans ha)
      exact iff_of_true rfl (by omega)
    · rw [List.getElem?_set_ne (Ne.symm hi)] at ha
      rw [hstarted i a ha]
      rcases Nat.lt_or_gt_of_ne hi with hlt' | hgt
      · have := wordsBefore_mono q (show i + 1 ≤ c.pos from hlt')
        have wi := wordsBefore_succ ha
        obtain ⟨hl, hr⟩ := pos a (List.mem_of_getElem? ha)
        have : 1 ≤ wordsOf a.desc := Nat.mul_pos hl hr
        exact iff_of_true (by omega) (by omega)
      · have := wordsBefore_mono q (show c.pos + 1 ≤ i from hgt)
        exact iff_of_false (by omega) (by omega)

theorem fetched_eq_some {x : Port} {c : Cursor} {e : QEntry} (h : x.fetched = some (c, e)) :
    x.fetch = some c ∧ x.queue[c.pos]? = some e := by
  unfold Port.fetched at h
  split at h
  next cur hc =>
    split at h
    next a ha =>
      obtain ⟨rfl, rfl⟩ := Prod.mk.inj (Option.some.inj h)
      exact ⟨hc, ha⟩
    · cases h
  · cases h

/-- A replay grant reserves entries for the words from the cursor on (R68, R108). -/
theorem transfers_grantReplay {x : Port} (h : Transfers .replay x none) {c : Cursor} {e : QEntry}
    (hf : x.fetched = some (c, e)) {n : Nat} (hn : 1 ≤ n) (hfree : n ≤ x.freeSpace) (hle : c.off + n ≤ e.desc.length)
    (hx : x.state ≠ .closed ∧ x.state ≠ .faulted) {f : Flight} (hk : f.kind = .readBurst) (hs : f.slots = slotsOf e.desc c n)
    (hc : f.count = n) : Transfers .replay (Port.fetchGranted c e n x) (some f) := by
  obtain ⟨hfetch, he⟩ := fetched_eq_some hf
  have hwords := h.wordsOk
  have hcur := h.cursorOk
  obtain ⟨hqok, ⟨h64, hres, hclosed⟩, -, -⟩ := h
  have hslots : slotsIn (some f) = slotsOf e.desc c n := hs
  have hlen : (slotsOf e.desc c n).length = n := by simp [slotsOf]
  have hdesc : (Port.fetchGranted c e n x).queue.map (·.desc) = x.queue.map (·.desc) := map_desc_set he
  have hprog : (Port.fetchGranted c e n x).queue.map (·.progress) = x.queue.map (·.progress) := by
    obtain ⟨hi, rfl⟩ := List.getElem?_eq_some_iff.1 he
    have self := List.set_getElem_self (as := x.queue.map (·.progress)) (i := c.pos) (by simpa using hi)
    rw [List.getElem_map] at self
    unfold Port.fetchGranted
    rwa [List.map_set]
  have progress : headProgress (Port.fetchGranted c e n x) = headProgress x := by
    unfold headProgress
    cases hq : x.queue <;> cases hq' : (Port.fetchGranted c e n x).queue <;> rw [hq, hq'] at hprog <;> simp_all
  have hnone : fetchedIn x none = headProgress x + x.fifo.length := rfl
  rw [hfetch, hnone] at hcur
  have zeroRes : x.reservation = 0 := hres
  unfold Port.freeSpace at hfree
  rw [zeroRes] at hfree
  have sameFifo : (Port.fetchGranted c e n x).fifo = x.fifo := rfl
  refine ⟨?_, ⟨?_, ?_, ?_⟩, fun g hg => ?_, fun _ => ⟨?_, ?_⟩⟩
  · obtain ⟨hall, hhead⟩ := hqok
    have mem (d : Desc) (hd : d ∈ (Port.fetchGranted c e n x).queue.map (·.desc)) :
        1 ≤ d.length ∧ 1 ≤ d.rpt.getD 1 ∧ (Dir.replay = .capture → d.rpt = none) := by
      rw [hdesc] at hd
      obtain ⟨a, ha, rfl⟩ := List.mem_map.1 hd
      exact hall a ha
    refine ⟨fun a ha => mem _ (List.mem_map_of_mem ha), fun a t ha => ?_⟩
    cases hq : x.queue with
    | nil => simp [Port.fetchGranted, hq] at ha
    | cons b r =>
      rw [ha, hq] at hprog hdesc
      simp only [List.map_cons, List.cons.injEq] at hprog hdesc
      obtain ⟨hlt, hrest⟩ := hhead b r hq
      refine ⟨by rw [hprog.1, hdesc.1]; exact hlt, fun y hy => ?_⟩
      have : y.progress ∈ r.map (·.progress) := hprog.2 ▸ List.mem_map_of_mem hy
      obtain ⟨z, hz, hzy⟩ := List.mem_map.1 this
      rw [← hzy]
      exact hrest z hz
  · rw [sameFifo]
    show x.fifo.length + n ≤ 64
    omega
  · show n = _
    rw [hslots, hlen]
  · rintro (e | e)
    · exact absurd e hx.1
    · exact absurd e hx.2
  · obtain rfl := Option.some.inj hg
    exact ⟨hc ▸ hn, nofun, fun _ => ⟨hk, by rw [hs, hlen, hc]⟩⟩
  · refine WordsOk.congr hdesc.symm ⟨?_, ?_⟩
    · rw [progress]
      exact hwords.1
    · intro i sl hsl
      obtain ⟨e', he', hr1, hr2, hoff, hm⟩ := hcur.1 c rfl
      obtain rfl := Option.some.inj (he.symm.trans he')
      rw [hslots] at hsl
      have := slotsOf_getElem he hr1 hr2 hle hsl
      rwa [progress, sameFifo, ← hm, show wordsBefore x.queue c.pos + (c.rep - 1) * e.desc.length + c.off + i =
        wordsBefore x.queue c.pos + ((c.rep - 1) * e.desc.length + c.off + i) by omega]
  · rw [fetchedIn_def, progress, hslots, hlen, sameFifo]
    exact hcur.moved he hn hle fun a ha => ⟨(hqok.1 a ha).1, (hqok.1 a ha).2.1⟩

/-! ### A flush (R122) -/

theorem filter_eq_take {α : Type} (p : α → Bool) (q : List α) (h : ∀ (i j : Nat) (a b : α), i ≤ j → q[i]? = some a →
    q[j]? = some b → p b = true → p a = true) : ∃ m, m ≤ q.length ∧ q.filter p = q.take m ∧
      ∀ (i : Nat) (a : α), q[i]? = some a → (p a = true ↔ i < m) := by
  induction q with
  | nil => exact ⟨0, le_rfl, rfl, nofun⟩
  | cons a t ih =>
    obtain ⟨m, hm, hf, hi⟩ := ih fun i j b c hij hb hc => h (i + 1) (j + 1) b c (by omega) hb hc
    by_cases ha : p a = true
    · refine ⟨m + 1, by simpa using hm, by rw [List.filter_cons_of_pos ha, hf]; rfl, fun i b hb => ?_⟩
      cases i with
      | zero =>
        obtain rfl := Option.some.inj hb
        simpa using ha
      | succ i => rw [hi i b hb]; omega
    · refine ⟨0, Nat.zero_le _, ?_, fun i b hb => ?_⟩
      · rw [List.take_zero, List.filter_eq_nil_iff]
        intro b hb hp
        obtain ⟨j, hj, rfl⟩ := List.getElem_of_mem hb
        exact ha (h 0 j a _ (Nat.zero_le _) rfl (List.getElem?_eq_getElem hj) hp)
      · exact iff_of_false (fun hp => ha (h 0 i a b (Nat.zero_le _) rfl hb hp)) (Nat.not_lt_zero _)

/-- On a replay port the started entries are the first of the queue, with every word already fetched. -/
theorem CursorOk.started {q : List QEntry} {fetch : Option Cursor} {n : Nat} (ok : CursorOk q fetch n) :
    ∃ m, m ≤ q.length ∧ q.filter (·.started) = q.take m ∧
      (∀ (i : Nat) (e : QEntry), q[i]? = some e → (e.started = true ↔ i < m)) ∧ n ≤ wordsBefore q m := by
  have le := ok.le
  obtain ⟨-, -, hst⟩ := ok
  obtain ⟨m, hm, hf, hi⟩ := filter_eq_take (·.started) q fun i j a b hij ha hb hp =>
    (hst i a ha).2 (lt_of_le_of_lt (wordsBefore_mono q hij) ((hst j b hb).1 hp))
  refine ⟨m, hm, hf, hi, ?_⟩
  rcases Nat.lt_or_ge m q.length with hlt | hge
  · have hget : q[m]? = some q[m] := List.getElem?_eq_getElem hlt
    exact not_lt.1 fun hn => absurd ((hi m _ hget).1 ((hst m _ hget).2 hn)) (lt_irrefl m)
  · exact le_antisymm hm hge ▸ le

theorem wordsBefore_take (q : List QEntry) {i m : Nat} (h : i ≤ m) : wordsBefore (q.take m) i = wordsBefore q i := by
  unfold wordsBefore
  rw [List.take_take, min_eq_left h]

theorem QueueOk.take {d : Dir} {q : List QEntry} (ok : QueueOk d q) (m : Nat) : QueueOk d (q.take m) := by
  obtain ⟨hall, hhead⟩ := ok
  refine ⟨fun e he => hall e (List.mem_of_mem_take he), fun k t hk => ?_⟩
  cases q with
  | nil => simp at hk
  | cons a r =>
    cases m with
    | zero => simp at hk
    | succ m =>
      obtain ⟨rfl, rfl⟩ := List.cons.inj hk
      obtain ⟨hlt, hrest⟩ := hhead a r rfl
      exact ⟨hlt, fun e he => hrest e (List.mem_of_mem_take he)⟩

theorem WordsOk.take {q : List QEntry} {n m : Nat} {fifo : List FifoWord} {slots : List Slot} (ok : WordsOk q n fifo slots)
    (hm : m ≤ q.length) (hn : n + fifo.length + slots.length ≤ wordsBefore q m) : WordsOk (q.take m) n fifo slots := by
  have kept {k : Nat} {b : Boundary} (hb : wordAt q k = some b) (hk : k < wordsBefore q m) : wordAt (q.take m) k = some b := by
    have total : k < wordsBefore (q.take m) (q.take m).length := by
      rwa [List.length_take, min_eq_left hm, wordsBefore_take q le_rfl]
    rwa [← wordAt_append (q.drop m) total, List.take_append_drop]
  refine ⟨fun i e he => ?_, fun i sl hs => ?_⟩
  · obtain ⟨b, hb, hw⟩ := ok.1 i e he
    have := (List.getElem?_eq_some_iff.1 he).1
    exact ⟨b, hb, kept hw (by omega)⟩
  · have := (List.getElem?_eq_some_iff.1 hs).1
    exact kept (ok.2 i sl hs) (by omega)

/-- The cursor after a flush of what is not started. -/
theorem CursorOk.flushed {q : List QEntry} {x : Port} {n m : Nat} (hq : x.queue = q) (ok : CursorOk q x.fetch n) (hm : m ≤ q.length)
    (hi : ∀ (i : Nat) (e : QEntry), q[i]? = some e → (e.started = true ↔ i < m)) (hn : n ≤ wordsBefore q m) :
    CursorOk (q.take m) (x.flushedFetch .replay) n := by
  obtain ⟨hsome, hnone, hst⟩ := ok
  have len : (q.take m).length = m := by rw [List.length_take, min_eq_left hm]
  have started (i : Nat) (e : QEntry) (he : (q.take m)[i]? = some e) : e.started = true ↔ wordsBefore (q.take m) i < n := by
    have hlt : i < m := len ▸ (List.getElem?_eq_some_iff.1 he).1
    rw [List.getElem?_take_of_lt hlt] at he
    rw [wordsBefore_take q hlt.le]
    exact hst i e he
  cases hf : x.fetch with
  | none =>
    have hfetch : x.flushedFetch .replay = none := by simp [Port.flushedFetch, Port.fetched, hf]
    rw [hfetch]
    refine ⟨nofun, fun _ => ?_, started⟩
    rw [len, wordsBefore_take q le_rfl]
    exact le_antisymm (hnone hf ▸ wordsBefore_mono q hm) hn
  | some c =>
    obtain ⟨e, he, hr1, hr2, hoff, hsum⟩ := hsome c hf
    have hfetched : x.fetched = some (c, e) := by simp [Port.fetched, hf, hq, he]
    by_cases hs : e.started = true
    · have hlt := (hi c.pos e he).1 hs
      have hfetch : x.flushedFetch .replay = some c := by simp [Port.flushedFetch, hfetched, hs]
      rw [hfetch]
      refine ⟨fun d hd => ?_, nofun, started⟩
      obtain rfl := Option.some.inj hd
      exact ⟨e, by rwa [List.getElem?_take_of_lt hlt], hr1, hr2, hoff, by rwa [wordsBefore_take q hlt.le]⟩
    · have hfetch : x.flushedFetch .replay = none := by simp [Port.flushedFetch, hfetched, hs]
      have notFetched : n ≤ wordsBefore q c.pos := not_lt.1 fun h => hs ((hst c.pos e he).2 h)
      have hge : m ≤ c.pos := not_lt.1 fun h => hs ((hi c.pos e he).2 h)
      have := wordsBefore_mono q hge
      rw [hfetch]
      refine ⟨nofun, fun _ => ?_, started⟩
      rw [len, wordsBefore_take q le_rfl]
      omega

theorem headProgress_take {q : List QEntry} {x y : Port} (hx : x.queue = q) {m : Nat} (hy : y.queue = q.take m)
    (h0 : m = 0 → headProgress x = 0) : headProgress y = headProgress x := by
  unfold headProgress at *
  rw [hx] at h0
  rw [hx, hy]
  cases q with
  | nil => simp
  | cons a t =>
    cases m with
    | zero => exact (h0 rfl).symm
    | succ m => rfl

/-- A flush keeps the words already fetched, and on a capture port the head (R122). -/
theorem transfers_flushed {d : Dir} {x : Port} {live : Option Flight} (h : Transfers d x live) :
    Transfers d (Port.flushed d x) live := by
  refine Transfers.congr (sameWords_idleIfEmpty _) ?_
  obtain ⟨hqok, hf, hb, hs⟩ := h
  cases d with
  | capture =>
    refine ⟨hqok.take 1, hf, fun f hl => ?_, nofun⟩
    obtain ⟨hcount, hcap, hrep⟩ := hb f hl
    refine ⟨hcount, fun _ => ?_, hrep⟩
    obtain ⟨hk, hsl, e, t, he, hle⟩ := hcap rfl
    exact ⟨hk, hsl, e, [], by simp [flushSplit, he], hle⟩
  | replay =>
    obtain ⟨hw, hc⟩ := hs rfl
    obtain ⟨m, hm, hfil, hi, hn⟩ := hc.started
    have hqueue : (flushSplit .replay x.queue).1 = x.queue.take m := hfil
    have hcur := CursorOk.flushed rfl hc hm hi hn
    have progress : headProgress { x with queue := (flushSplit .replay x.queue).1, fetch := x.flushedFetch .replay } =
        headProgress x := by
      refine headProgress_take rfl hqueue fun h0 => ?_
      subst h0
      rw [wordsBefore_zero, fetchedIn_def] at hn
      omega
    refine ⟨?_, hf, fun f hl => ⟨(hb f hl).1, nofun, (hb f hl).2.2⟩, fun _ => ?_⟩
    · rw [hqueue]
      exact hqok.take m
    · rw [fetchedIn_def, progress, hqueue]
      exact ⟨hw.take hm hn, hcur⟩

end Sys2Proof.Proofs

/-! PROOFS. Every step keeps a legal configuration outside SETUP, open ports on an ARMED device, and the words in transfer
(R19, R35, R67, R68, R77, R78, R97, R107, R108). -/

namespace Sys2Proof.Proofs

open Sys2Proof.Machine Sys2Proof.Safety Sys2Proof.Laws

/-! ### States that agree in what is in transfer -/

/-- Configuration and words in transfer are sound. -/
def Fits (s : State) : Prop := ConfigurationSound s ∧ ∀ p, TransfersAt s p

theorem liveOf_congr {s t : State} (h : t.mc.flight = s.mc.flight) (p : PortId) : liveOf t p = liveOf s p := by
  unfold liveOf
  rw [h]

theorem liveOf_eq_none {s : State} {p : PortId} (h : ∀ f, s.mc.flight = some f → f.who ≠ .port p) : liveOf s p = none := by
  rw [Option.eq_none_iff_forall_ne_some]
  intro f hf
  obtain ⟨hfl, hw, -⟩ := liveOf_eq_some.1 hf
  exact h f hfl hw

theorem liveOf_none {s : State} (h : s.mc.flight = none) (p : PortId) : liveOf s p = none :=
  liveOf_eq_none fun _ hf => nomatch h.symm.trans hf

/-- `t` has the configuration, the device state and every port's words of `s`. -/
def Quiet (s t : State) : Prop :=
  t.sc.cfg = s.sc.cfg ∧ t.sc.device = s.sc.device ∧ ∀ p, SameWords (s.port p) (t.port p) ∧
    ((s.port p).state = .closed → (t.port p).state = .closed) ∧ liveOf t p = liveOf s p

theorem SameWords.refl (x : Port) : SameWords x x := ⟨rfl, rfl, rfl, rfl, id⟩

theorem SameWords.trans {x y z : Port} (h : SameWords x y) (k : SameWords y z) : SameWords x z := by
  obtain ⟨h1, h2, h3, h4, h5⟩ := h
  obtain ⟨k1, k2, k3, k4, k5⟩ := k
  exact ⟨k1.trans h1, k2.trans h2, k3.trans h3, k4.trans h4, h5 ∘ k5⟩

namespace Quiet

variable {s t u : State}

/-- The controller's transaction is as before, and the ports are. -/
theorem of_eq (hsc : t.sc = s.sc) (hf : t.mc.flight = s.mc.flight) (hp : t.ports = s.ports) : Quiet s t := by
  have same (p : PortId) : t.port p = s.port p := congrArg (·.get p) hp
  exact ⟨by rw [hsc], by rw [hsc], fun p => ⟨same p ▸ .refl _, fun h => (same p).symm ▸ h, liveOf_congr hf p⟩⟩

protected theorem refl (s : State) : Quiet s s := of_eq rfl rfl rfl

theorem trans (h : Quiet s t) (k : Quiet t u) : Quiet s u := by
  obtain ⟨hc, hd, hp⟩ := h
  obtain ⟨kc, kd, kp⟩ := k
  refine ⟨kc.trans hc, kd.trans hd, fun p => ?_⟩
  obtain ⟨h1, h2, h3⟩ := hp p
  obtain ⟨k1, k2, k3⟩ := kp p
  exact ⟨h1.trans k1, k2 ∘ h2, k3.trans h3⟩

theorem fits (h : Quiet s t) (hs : Fits s) : Fits t := by
  obtain ⟨hc, hd, hp⟩ := h
  obtain ⟨⟨h1, h2⟩, h3⟩ := hs
  have cfg (p : PortId) : t.pcfg p = s.pcfg p := by simp only [State.pcfg, hc]
  refine ⟨⟨fun e => ?_, fun p e => ?_⟩, fun p => ?_⟩
  · rw [hc]
    exact h1 (hd ▸ e)
  · rw [hd, cfg]
    exact h2 p fun e' => e ((hp p).2.1 e')
  · rw [transfersAt_def, cfg, (hp p).2.2]
    exact (h3 p).congr (hp p).1

theorem mapPorts {q : Quad Port} (hq : ∀ p, SameWords (s.port p) (q.get p) ∧
    ((s.port p).state = .closed → (q.get p).state = .closed)) : Quiet s { s with ports := q } :=
  ⟨rfl, rfl, fun p => ⟨(hq p).1, (hq p).2, rfl⟩⟩

end Quiet

theorem sameWords_settlePort (k : PortCfg) (a : Bool) (x : Port) : SameWords x (settlePort k a x) := by
  rw [settlePort_eq]
  exact ⟨rfl, rfl, rfl, rfl, id⟩

theorem quiet_settlePorts (s : State) : Quiet s (settlePorts s) := by
  refine Quiet.mapPorts fun p => ?_
  rw [Quad.get_map]
  exact ⟨sameWords_settlePort _ _ _, fun h => (settlePort_state _ _ _).trans h⟩

theorem quiet_settle (s : State) : Quiet s (settle s) := (quiet_settlePorts s).trans (.of_eq rfl rfl rfl)

theorem quiet_finish (r : Result) (q : Words4) (s : State) : Quiet s (finish r q s) := .of_eq rfl rfl rfl

theorem quiet_closeGrant (s : State) : Quiet s (closeGrant s) := by
  rw [closeGrant_eq]
  exact (quiet_settlePorts s).trans (.of_eq rfl rfl rfl)

/-! ### Work for one port -/

theorem liveOf_orphaned (s : State) (p : PortId) : liveOf (orphanFlight p s) p = none := by
  rw [Option.eq_none_iff_forall_ne_some]
  intro f hf
  obtain ⟨hfl, hw, ho⟩ := liveOf_eq_some.1 hf
  rw [orphanFlight_mc] at hfl
  obtain ⟨g, -, rfl⟩ := Option.map_eq_some_iff.1 hfl
  by_cases hg : g.who = .port p
  · simp [hg] at ho
  · simp [hg] at hw

theorem PortWork.others_live {p r : PortId} {s t : State} (h : PortWork p s t) (hr : r ≠ p) : liveOf t r = liveOf s r := by
  obtain ⟨-, -, -, -, -, m, hm⟩ := h
  rcases hm with hm | hm
  · exact liveOf_congr (by rw [hm]) r
  · unfold liveOf
    rw [hm]
    cases s.mc.flight with
    | none => rfl
    | some f =>
      by_cases hf : f.who = .port p
      · simp [orphaned_def, hf, Option.filter_some, hr.symm]
      · simp [orphaned_def, hf]

theorem PortWork.configuration {p : PortId} {s t : State} (h : PortWork p s t) (hs : ConfigurationSound s) :
    ConfigurationSound t := by
  obtain ⟨h1, h2⟩ := hs
  unfold ConfigurationSound
  rw [h.setup]
  refine ⟨h1, fun r hr => ?_⟩
  rw [h.pcfg_eq]
  refine h2 r fun e => hr ?_
  by_cases he : r = p
  · subst he
    exact h.2.2.2.2.1 e
  · rwa [h.others he]

/-- Work for port p on a state whose other ports are in order. -/
theorem PortWork.fits_of_others {p : PortId} {s t : State} (h : PortWork p s t) (hc : ConfigurationSound s)
    (ho : ∀ r, r ≠ p → TransfersAt s r) (hp : TransfersAt t p) : Fits t := by
  refine ⟨h.configuration hc, fun r => ?_⟩
  by_cases hr : r = p
  · exact hr ▸ hp
  · rw [transfersAt_def, h.pcfg_eq, h.others hr, h.others_live hr]
    exact ho r hr

theorem PortWork.fits {p : PortId} {s t : State} (h : PortWork p s t) (hs : Fits s) (hp : TransfersAt t p) : Fits t :=
  h.fits_of_others hs.1 (fun r _ => hs.2 r) hp

/-- Port p's words and transaction are as before. -/
def Alike (p : PortId) (s t : State) : Prop :=
  t.sc = s.sc ∧ SameWords (s.port p) (t.port p) ∧ liveOf t p = liveOf s p

namespace Alike

variable {p : PortId} {s t u : State}

theorem transfersAt (h : Alike p s t) (hs : TransfersAt s p) : TransfersAt t p := by
  obtain ⟨hsc, hw, hl⟩ := h
  have cfg : t.pcfg p = s.pcfg p := by simp only [State.pcfg, hsc]
  rw [transfersAt_def, cfg, hl]
  exact hs.congr hw

protected theorem refl (p : PortId) (s : State) : Alike p s s := ⟨rfl, .refl _, rfl⟩

theorem trans (h : Alike p s t) (k : Alike p t u) : Alike p s u :=
  ⟨k.1.trans h.1, h.2.1.trans k.2.1, k.2.2.trans h.2.2⟩

theorem updEu (f : EventUnit → EventUnit) (h : Alike p s t) : Alike p s (t.updEu f) := h

theorem post (r : Report) (h : Alike p s t) : Alike p s (post r t) := h

theorem updPort {f : Port → Port} (hf : SameWords (t.port p) (f (t.port p))) (h : Alike p s t) : Alike p s (t.updPort p f) :=
  h.trans ⟨rfl, (State.updPort_port_self p f t).symm ▸ hf, rfl⟩

theorem branch {c : Prop} [Decidable c] {a b : State} (ha : c → Alike p s a) (hb : ¬ c → Alike p s b) :
    Alike p s (if c then a else b) := by
  split
  next h => exact ha h
  next h => exact hb h

theorem startOverrun (h : Alike p s t) : Alike p s (startOverrun p t) :=
  branch (fun _ => h) fun _ => (h.updPort ⟨rfl, rfl, rfl, rfl, id⟩).post _

theorem startUnderrun (h : Alike p s t) : Alike p s (startUnderrun p t) :=
  branch (fun _ => h) fun _ => (h.updPort ⟨rfl, rfl, rfl, rfl, id⟩).post _

theorem heldOffer (h : Alike p s t) : Alike p s (heldOffer p t) := by
  unfold Machine.heldOffer
  dsimp only
  split
  · exact branch (fun _ => h.startOverrun) fun _ => h
  · exact branch (fun _ => h.startUnderrun) fun _ => h

end Alike

/-! ### A port that closes or faults -/

theorem transfersAt_shut {p : PortId} {s : State} (d : Detail) (n : Nat) (hl : liveOf s p = none) :
    TransfersAt (shut p d n s) p := by
  have live : liveOf (shut p d n s) p = none := (liveOf_congr (by rw [shut_mc]) p).trans hl
  rw [transfersAt_def, live, shut_port_self]
  exact .empty _ rfl rfl rfl rfl

theorem liveOf_of_drainEnded {p : PortId} {s : State} (h : TransfersAt s p) (hd : drainEnded s p = true) :
    liveOf s p = none := by
  rcases (drainEnded_iff s p).1 hd with ⟨-, hl, -⟩ | ⟨hdir, -, hr⟩
  · rw [Option.eq_none_iff_forall_ne_some]
    intro f hf
    obtain ⟨hfl, hw, ho⟩ := liveOf_eq_some.1 hf
    simp [liveFlight, hfl, hw, ho] at hl
  · rw [transfersAt_def, hdir] at h
    exact h.live_none_of_reservation hr

theorem transfersAt_closeEnd {p : PortId} {s : State} (hl : liveOf s p = none) : TransfersAt (closeEnd p s) p := by
  rw [closeEnd_eq]
  exact transfersAt_shut _ _ ((liveOf_congr (by rw [postAll_mc]) p).trans hl)

theorem transfersAt_closeTest {p : PortId} {s : State} (h : TransfersAt s p) : TransfersAt (closeTest p s) p := by
  unfold closeTest
  split
  next hc => exact transfersAt_closeEnd (liveOf_of_drainEnded h hc.2)
  · exact h

theorem transfersAt_abandon (p : PortId) (s : State) : TransfersAt (abandon p s) p := by
  rw [abandon_eq]
  exact transfersAt_shut _ _ (liveOf_orphaned _ _)

theorem transfersAt_abortPort {p : PortId} {s : State} (h : TransfersAt s p) (hl : liveOf s p = none) :
    TransfersAt (abortPort p s) p := by
  by_cases hc : (s.port p).state = .closed
  · simp only [abortPort, hc]
    exact h
  · by_cases hf : (s.port p).state = .faulted
    · rw [abortPort_faulted hf]
      exact transfersAt_shut _ _ hl
    · rw [abortPort_open hc hf]
      exact transfersAt_shut _ _ ((liveOf_congr (by rw [postAll_mc]) p).trans hl)

theorem transfersAt_fault {p : PortId} {s : State} (cause : Detail) (h : TransfersAt s p) : TransfersAt (fault p cause s) p := by
  unfold fault
  dsimp only
  split
  · have live : liveOf (orphanFlight p (endWork p endFault s)) p = none := liveOf_orphaned _ _
    have empty : TransfersAt ((orphanFlight p (endWork p endFault s)).updPort p Port.faulted) p := by
      have same : liveOf ((orphanFlight p (endWork p endFault s)).updPort p Port.faulted) p = none := live
      rw [transfersAt_def, State.updPort_port_self, same]
      exact .empty _ rfl rfl rfl rfl
    exact empty
  · exact h

/-! ### Links (Chapter 5) -/

theorem transfersAt_captureBeat {p : PortId} {s : State} (w : Word) (m : Bool) (h : TransfersAt s p) :
    TransfersAt (captureBeat p w m s) p := by
  unfold captureBeat
  dsimp only
  split
  · exact h
  next hd =>
    have dir : (s.pcfg p).dir = .capture := not_not.1 hd
    split
    · exact (Alike.refl p s).heldOffer.transfersAt h
    next hr =>
      split
      next hf =>
        have accepted : Transfers .capture (Port.accept w m (s.port p)) (liveOf s p) := by
          rw [transfersAt_def, dir] at h
          obtain ⟨hq, ⟨-, hres, hclosed⟩, hb, -⟩ := h
          have noRes : (s.port p).reservation = 0 := by
            rw [hres]
            cases hl : liveOf s p with
            | none => rfl
            | some f =>
              obtain ⟨-, hslots, -⟩ := (hb f hl).2.1 rfl
              simp [slotsIn_def, hslots]
          refine ⟨hq, ⟨?_, hres, fun e => ?_⟩, hb, nofun⟩
          · show ((s.port p).fifo ++ [_]).length + (s.port p).reservation ≤ 64
            rw [List.length_append, List.length_singleton, noRes]
            omega
          · have working : (s.port p).state.working = true := by
              simp only [readyPin, Bool.not_eq_false, Bool.and_eq_true] at hr
              exact hr.1
            rcases (working_iff _).1 working with hx | hx <;> rcases e with e | e <;>
              exact nomatch hx.symm.trans (e : (s.port p).state = _)
        rw [transfersAt_def, State.updPort_port_self]
        exact dir ▸ accepted
      · split
        · exact ((((Alike.refl p s).updPort (f := fun x => { x with drop := saturate 65535 x.drop })
            ⟨rfl, rfl, rfl, rfl, id⟩).startOverrun).updPort (f := Port.beatSeen) ⟨rfl, rfl, rfl, rfl, id⟩).transfersAt h
        · exact transfersAt_fault _ h

theorem doneHead_port {p : PortId} (d : Detail) {s : State} {k : QEntry} {t : List QEntry} (hq : (s.port p).queue = k :: t) :
    (doneHead p d s).port p = Port.doneWith (s.pcfg p).dir k.desc (s.port p) := by
  rw [doneHead_eq d hq]
  split <;> simp

theorem doneHead_mc (p : PortId) (d : Detail) (s : State) : (doneHead p d s).mc = s.mc := by
  cases hq : (s.port p).queue with
  | nil => rw [doneHead_nil d hq]
  | cons k t =>
    rw [doneHead_eq d hq]
    split <;> cases k.desc.notify || k.desc.stop <;> rfl

/-- The sequencer's part of an emission: the head's progress rises, and the final word ends it (R112, R113). -/
theorem emitSteps_port {p : PortId} {v : State} (hd : (v.pcfg p).dir = .replay) {e : FifoWord} {b : Boundary}
    (hb : e.boundary = some b) {k : QEntry} {t : List QEntry} (hq : (v.port p).queue = k :: t) :
    (emitSteps p e v).port p = (if b.final then Port.doneWith .replay k.desc ((v.port p).advance 1)
      else (v.port p).advance 1) ∧ (emitSteps p e v).mc = v.mc := by
  have advanced : (v.updPort p (Port.advance 1)).port p = (v.port p).advance 1 := State.updPort_port_self _ _ _
  have queued : ((v.port p).advance 1).queue = { k with progress := k.progress + 1 } :: t := by
    rw [advance_eq 1 hq]
  have told (u : State) (hp : u.port p = (v.port p).advance 1) (hm : u.mc = v.mc) (hu : (u.pcfg p).dir = .replay) :
      (if b.final then doneHead p .noDetail u else u).port p = (if b.final then
        Port.doneWith .replay k.desc ((v.port p).advance 1) else (v.port p).advance 1) ∧
        (if b.final then doneHead p .noDetail u else u).mc = v.mc := by
    split
    · refine ⟨?_, (doneHead_mc _ _ _).trans hm⟩
      rw [doneHead_port _ (hp ▸ queued), hu, hp]
    · exact ⟨hp, hm⟩
  simp only [emitSteps, hq, hb]
  cases guardHit k b with
  | false => exact told _ advanced rfl hd
  | true => exact told _ advanced rfl hd

theorem transfersAt_emit {p : PortId} {s : State} {e : FifoWord} {rest : List FifoWord} (hd : (s.pcfg p).dir = .replay)
    (hf : (s.port p).fifo = e :: rest) (h : TransfersAt s p) : TransfersAt (emit p e s) p := by
  have replay := h
  rw [transfersAt_def, hd] at replay
  obtain ⟨k, t, b, hq, hb, hlt, hfinal⟩ := replay.front hf
  have popped : (s.updPort p fun x => { x with fifo := x.fifo.tail }).port p =
      { s.port p with fifo := (s.port p).fifo.tail } := State.updPort_port_self _ _ _
  obtain ⟨hport, hmc⟩ := emitSteps_port (v := s.updPort p fun x => { x with fifo := x.fifo.tail }) hd hb
    ((congrArg Port.queue popped).trans hq)
  rw [popped] at hport
  have work := ((PortWork.refl p s).updPort (f := fun x => { x with fifo := x.fifo.tail }) id).emitSteps e
  have emitted : TransfersAt (emitSteps p e (s.updPort p fun x => { x with fifo := x.fifo.tail })) p := by
    have live := liveOf_congr (s := s) (congrArg MemCtl.flight hmc) p
    rw [transfersAt_def, work.pcfg_eq, hd, hport, live]
    exact transfers_emitted replay hf hq hlt hfinal
  exact transfersAt_closeTest (((Alike.refl p _).updPort (f := fun x => Port.beatSeen { x with underrun := false })
    ⟨rfl, rfl, rfl, rfl, id⟩).transfersAt emitted)

theorem transfersAt_replayBeat {p : PortId} {s : State} (h : TransfersAt s p) : TransfersAt (replayBeat p s) p := by
  unfold replayBeat
  dsimp only
  split
  · exact h
  next hd =>
    split
    · exact (Alike.refl p s).heldOffer.transfersAt h
    · split
      next hf => exact transfersAt_emit (not_not.1 hd) hf h
      · exact ((((Alike.refl p s).updPort (f := fun x => { x with fill := saturate 65535 x.fill })
          ⟨rfl, rfl, rfl, rfl, id⟩).startUnderrun).updPort (f := Port.beatSeen) ⟨rfl, rfl, rfl, rfl, id⟩).transfersAt h

theorem transfersAt_declareIdle {p : PortId} {s : State} (h : TransfersAt s p) : TransfersAt (declareIdle p s) p := by
  unfold declareIdle
  dsimp only
  split
  · exact transfersAt_abandon _ _
  · exact (((Alike.refl p s).updPort (f := fun y => { y with idleCount := y.idleCount + 1, idleDeclared := true })
      ⟨rfl, rfl, rfl, rfl, id⟩).post _).transfersAt h

theorem transfersAt_tickLinkIdle {p : PortId} {s : State} (h : TransfersAt s p) : TransfersAt (tickLinkIdle p s) p := by
  unfold tickLinkIdle
  split
  · exact transfersAt_declareIdle h
  · split
    · exact ((Alike.refl p s).updPort (f := fun y => { y with idleCount := y.idleCount + 1 })
        ⟨rfl, rfl, rfl, rfl, id⟩).transfersAt h
    · exact h

/-! ### Completions (R103 to R111) -/

/-- A capture burst's processing up to the end of the head, whatever was told of the guard. -/
theorem transfersAt_captureEnd {p : PortId} {f : Flight} {s v : State}
    (h : Transfers .capture (s.port p) (some f)) {k : QEntry} {t : List QEntry} (hq : (s.port p).queue = k :: t)
    (hcfg : (v.pcfg p).dir = .capture) (hlive : liveOf v p = none)
    (hport : v.port p = ((s.port p).advance f.count).logMarks k.desc.tag k.progress f.addr f.words) (c : Prop) [Decidable c] :
    TransfersAt (if c then doneHead p .markEnd v
      else if k.progress + f.count = k.desc.length then doneHead p .noDetail v else v) p := by
  have words : SameWords ((s.port p).advance f.count) (v.port p) := hport ▸ sameWords_logMarks _ _ _ _ _
  have queued : (v.port p).queue = { k with progress := k.progress + f.count } :: t := by
    rw [words.1, advance_eq _ hq]
  have done (d : Detail) : TransfersAt (doneHead p d v) p := by
    have work := (PortWork.refl p v).doneHead d
    have live := (liveOf_congr (congrArg MemCtl.flight (doneHead_mc p d v)) p).trans hlive
    rw [transfersAt_def, work.pcfg_eq, hcfg, live, doneHead_port d queued, hcfg]
    exact transfers_captured h hq true (fun _ => rfl) words
  split
  · exact done _
  · split
    · exact done _
    next hne =>
      rw [transfersAt_def, hcfg, hlive]
      exact transfers_captured h hq false (fun e => absurd e hne) words

theorem transfersAt_captureSteps {p : PortId} {f : Flight} {s e : State}
    (h : Transfers .capture (s.port p) (some f)) (hcfg : (e.pcfg p).dir = .capture) (hlive : liveOf e p = none)
    (hport : e.port p = s.port p) : TransfersAt (captureSteps p f e) p := by
  obtain ⟨-, hcap, -⟩ := h.2.2.1 f rfl
  obtain ⟨-, -, k, t, hq, -⟩ := hcap rfl
  have advanced : (e.updPort p fun x => (x.advance f.count).logMarks k.desc.tag k.progress f.addr f.words).port p =
      ((s.port p).advance f.count).logMarks k.desc.tag k.progress f.addr f.words := by
    rw [State.updPort_port_self, hport]
  simp only [captureSteps, hport, hq]
  refine transfersAt_closeTest ?_
  cases guardPassed k f.count with
  | none =>
    refine transfersAt_captureEnd h hq ?_ ?_ advanced _
    · exact hcfg
    · exact hlive
  | some g =>
    refine transfersAt_captureEnd h hq ?_ ?_ ?_ _
    · exact hcfg
    · exact hlive
    · exact advanced

theorem transfersAt_parityPolicy {p : PortId} {s : State} (tag : Byte) (bad : Nat) (h : TransfersAt s p) :
    TransfersAt (parityPolicy p tag bad s) p := by
  unfold parityPolicy
  dsimp only
  split
  · exact h
  · split
    · exact transfersAt_fault _ h
    · exact h

/-- A port whose transaction has ended: as it was, with nothing of its own in flight. -/
theorem transfersAt_of_orphan {p : PortId} {s e : State} (h : TransfersAt s p) (hn : liveOf s p = none)
    (hcfg : e.pcfg p = s.pcfg p) (hport : e.port p = s.port p) (hlive : liveOf e p = none) : TransfersAt e p := by
  rw [transfersAt_def, hcfg, hport, hlive, ← hn]
  exact h

end Sys2Proof.Proofs

/-! PROOFS. Every event keeps a legal configuration outside SETUP, open ports on an ARMED device, and the words in transfer
(R19, R35, R67, R68, R77, R78, R97, R107, R108): the second half of O57. -/

namespace Sys2Proof.Proofs

open Sys2Proof.Machine Sys2Proof.Safety Sys2Proof.Laws

/-! ### Operations that touch no words -/

namespace Quiet

variable {s t : State}

theorem updSeq (f : Sequencer → Sequencer) (h : Quiet s t) : Quiet s (t.updSeq f) := h.trans (.of_eq rfl rfl rfl)

theorem updWin (f : Window → Window) (h : Quiet s t) : Quiet s (t.updWin f) := h.trans (.of_eq rfl rfl rfl)

theorem updHp (f : HostPort → HostPort) (h : Quiet s t) : Quiet s (t.updHp f) := h.trans (.of_eq rfl rfl rfl)

theorem updEu (f : EventUnit → EventUnit) (h : Quiet s t) : Quiet s (t.updEu f) := h.trans (.of_eq rfl rfl rfl)

theorem updMa (f : Arbiter → Arbiter) (h : Quiet s t) : Quiet s (t.updMa f) := h.trans (.of_eq rfl rfl rfl)

theorem updTb (f : Timebase → Timebase) (h : Quiet s t) : Quiet s (t.updTb f) := h.trans (.of_eq rfl rfl rfl)

theorem updMc {f : MemCtl → MemCtl} (hf : (f t.mc).flight = t.mc.flight) (h : Quiet s t) : Quiet s (t.updMc f) :=
  h.trans (.of_eq rfl hf rfl)

theorem branch {c : Prop} [Decidable c] {a b : State} (ha : c → Quiet s a) (hb : ¬ c → Quiet s b) :
    Quiet s (if c then a else b) := by
  split
  next h => exact ha h
  next h => exact hb h

theorem finish (r : Result) (q : Words4) (h : Quiet s t) : Quiet s (finish r q t) := h.trans (quiet_finish r q t)

theorem endMemCommand (r : Result) (h : Quiet s t) : Quiet s (endMemCommand r t) := by
  unfold Machine.endMemCommand
  split
  · exact h.finish _ _
  · exact h

theorem dropWindow (h : Quiet s t) : Quiet s (dropWindow t) := by
  have latched : Quiet s (if t.hp.win.latch = .pending ∧ prefetchGranted t = false then
      t.updWin fun w => { w with latch := .empty } else t) := branch (fun _ => h.updWin _) fun _ => h
  exact branch (fun _ => (latched.updWin _).updWin _) fun _ => latched

theorem chunkEnd (h : Quiet s t) : Quiet s (chunkEnd t) := by
  unfold Machine.chunkEnd
  split
  · exact branch (fun _ => h.endMemCommand _) fun _ => branch (fun _ => h.endMemCommand _) fun _ =>
      branch (fun _ => h.endMemCommand _) fun _ => h
  · exact h

end Quiet

/-- Neither transaction is a port's. -/
theorem quiet_of_no_live {s t : State} (hsc : t.sc = s.sc) (hp : t.ports = s.ports) (hs : ∀ p, liveOf s p = none)
    (ht : ∀ p, liveOf t p = none) : Quiet s t := by
  have same (p : PortId) : t.port p = s.port p := congrArg (·.get p) hp
  exact ⟨by rw [hsc], by rw [hsc], fun p =>
    ⟨same p ▸ .refl _, fun h => (same p).symm ▸ h, (ht p).trans (hs p).symm⟩⟩

/-- A discarded prefetch is no port's transaction. -/
theorem Fits.discardLatch {s : State} (h : Fits s) : Fits (discardLatch s) := by
  have live (p : PortId) : liveOf (Machine.discardLatch s) p = liveOf s p := by
    have notRead {f : Flight} (hf : liveOf s p = some f) : f.kind ≠ .wordRead := by
      obtain ⟨-, hcap, hrep⟩ := (h.2 p).2.2.1 f hf
      cases hd : (s.pcfg p).dir with
      | capture => simp [(hcap hd).1]
      | replay => simp [(hrep hd).1]
    simp only [liveOf_def, Machine.discardLatch, State.updMc_mc, State.updWin_mc] at notRead ⊢
    cases hf : s.mc.flight with
    | none => rfl
    | some f =>
      by_cases hk : f.kind = .wordRead
      · have orphan : ¬ (f.who = .port p ∧ f.orphan = false) := fun ⟨hw, ho⟩ => notRead (by simp [hf, hw, ho]) hk
        simp only [Option.map_some, Option.filter_some, hk, if_true]
        simp only [not_and, Bool.not_eq_false] at orphan
        by_cases hw : f.who = .port p
        · simp [hw, orphan hw]
        · simp [hw]
      · simp [hk]
  exact Quiet.fits (s := s) ⟨rfl, rfl, fun p => ⟨.refl _, id, live p⟩⟩ h

theorem no_live_of_controller {s : State} (h : ∀ f, s.mc.flight = some f → f.who = .controller) (p : PortId) : liveOf s p = none :=
  liveOf_eq_none fun f hf => by simp [h f hf]

/-! ### Resets -/

/-- A soft reset with no port's transaction in flight. -/
theorem fits_softReset {s : State} (h : ∀ p, liveOf s p = none) : Fits (softReset s) := by
  have port (p : PortId) : (softReset s).port p = {} := by cases p <;> rfl
  have live (p : PortId) : liveOf (softReset s) p = none := (liveOf_congr (s := s) rfl p).trans (h p)
  refine ⟨⟨fun e => absurd rfl e, fun p e => absurd (congrArg Port.state (port p)) e⟩, fun p => ?_⟩
  rw [transfersAt_def, live, port]
  exact .empty _ rfl rfl rfl rfl

theorem fits_hardReset (cause : ResetCause) (s : State) : Fits (hardReset cause s) := by
  have port (p : PortId) : (hardReset cause s).port p = {} := by cases p <;> rfl
  refine ⟨⟨fun e => absurd rfl e, fun p e => absurd (congrArg Port.state (port p)) e⟩, fun p => ?_⟩
  rw [transfersAt_def, liveOf_none rfl, port]
  exact .empty _ rfl rfl rfl rfl

theorem fits_deferredReset {s : State} (hs : Fits s) (h : ∀ p, liveOf s p = none) : Fits (deferredReset s) := by
  unfold deferredReset
  split
  · exact fits_softReset h
  · exact hs

/-! ### Completions (R49, R103 to R111, R133, R178) -/

theorem endFlight_ports (s : State) : (endFlight s).ports = s.ports := by
  unfold endFlight
  dsimp only
  split <;> rfl

theorem endFlight_port (s : State) (p : PortId) : (endFlight s).port p = s.port p := congrArg (·.get p) (endFlight_ports s)

theorem endFlight_sc (s : State) : (endFlight s).sc = s.sc := by
  unfold endFlight
  dsimp only
  split <;> rfl

theorem endFlight_pcfg (s : State) (p : PortId) : (endFlight s).pcfg p = s.pcfg p := by
  simp only [State.pcfg, endFlight_sc]

theorem liveOf_endFlight (s : State) (p : PortId) : liveOf (endFlight s) p = none := by
  refine no_live_of_controller (fun f hf => ?_) p
  unfold endFlight at hf
  dsimp only at hf
  split at hf
  · obtain rfl := Option.some.inj hf
    rfl
  · cases hf

theorem configuration_endFlight {s : State} (h : ConfigurationSound s) : ConfigurationSound (endFlight s) := by
  unfold ConfigurationSound
  rw [endFlight_sc]
  refine ⟨h.1, fun p => ?_⟩
  rw [endFlight_port, endFlight_pcfg]
  exact h.2 p

/-- A port whose transaction this was not. -/
theorem transfersAt_endFlight {s : State} {p : PortId} (h : TransfersAt s p) (hn : liveOf s p = none) :
    TransfersAt (endFlight s) p :=
  transfersAt_of_orphan h hn (endFlight_pcfg s p) (endFlight_port s p) (liveOf_endFlight s p)

theorem PortWork.live_none {p : PortId} {s t : State} (h : PortWork p s t) (hs : ∀ r, liveOf s r = none) (r : PortId) :
    liveOf t r = none := by
  by_cases hr : r = p
  · subst hr
    rw [Option.eq_none_iff_forall_ne_some]
    intro g hg
    obtain ⟨hfl, hw, ho⟩ := liveOf_eq_some.1 hg
    obtain ⟨-, -, -, -, -, m, hm | hm⟩ := h
    · rw [hm] at hfl
      exact nomatch (hs r).symm.trans (liveOf_eq_some.2 ⟨hfl, hw, ho⟩)
    · rw [hm] at hfl
      obtain ⟨f, hf, rfl⟩ := Option.map_eq_some_iff.1 hfl
      rw [orphaned_who] at hw
      simp [orphaned_def, hw] at ho
  · exact (h.others_live hr).trans (hs r)

/-- A port's completion: the words of its burst are dealt with, and no port has one in flight. -/
theorem fits_portBurst {s v : State} {f : Flight} {p : PortId} (h : Fits s) (hf : s.mc.flight = some f)
    (hw : f.who = .port p) (work : PortWork p (endFlight s) v) (hv : TransfersAt v p) :
    Fits v ∧ ∀ r, liveOf v r = none := by
  refine ⟨work.fits_of_others (configuration_endFlight h.1) (fun r hr => transfersAt_endFlight (h.2 r) ?_) hv,
    work.live_none (liveOf_endFlight s)⟩
  refine liveOf_eq_none fun g hg => ?_
  obtain rfl := Option.some.inj (hf.symm.trans hg)
  rw [hw]
  exact fun e => hr (Requester.port.inj e).symm

theorem transfersAt_captureCompletion {s : State} {f : Flight} {p : PortId} (h : TransfersAt s p)
    (hf : s.mc.flight = some f) (hw : f.who = .port p) (hk : f.kind = .writeBurst) :
    TransfersAt (captureCompletion f (endFlight s)) p := by
  simp only [captureCompletion, hw]
  cases ho : f.orphan with
  | true =>
    have none : liveOf s p = none := by
      rw [Option.eq_none_iff_forall_ne_some]
      intro g hg
      obtain ⟨hfl, -, hn⟩ := liveOf_eq_some.1 hg
      obtain rfl := Option.some.inj (hf.symm.trans hfl)
      exact nomatch ho.symm.trans hn
    exact transfersAt_of_orphan (transfersAt_endFlight h none) (liveOf_endFlight s p) rfl rfl (liveOf_endFlight s p)
  | false =>
    have live : liveOf s p = some f := liveOf_eq_some.2 ⟨hf, hw, ho⟩
    have dir : (s.pcfg p).dir = .capture := by
      cases hd : (s.pcfg p).dir with
      | capture => rfl
      | replay => exact nomatch hk.symm.trans ((h.2.2.1 f live).2.2 hd).1
    have words := h
    rw [transfersAt_def, dir, live] at words
    refine transfersAt_captureSteps words ?_ (liveOf_endFlight s p) (endFlight_port s p)
    rw [writeMemory_pcfg, endFlight_pcfg, dir]

theorem transfersAt_replayCompletion {s : State} {f : Flight} {p : PortId} (h : TransfersAt s p) (hs : PortsSound s)
    (hf : s.mc.flight = some f) (hw : f.who = .port p) (hk : f.kind = .readBurst) :
    TransfersAt (replayCompletion f (endFlight s)) p := by
  simp only [replayCompletion, hw]
  cases ho : f.orphan with
  | true =>
    have none : liveOf s p = none := by
      rw [Option.eq_none_iff_forall_ne_some]
      intro g hg
      obtain ⟨hfl, -, hn⟩ := liveOf_eq_some.1 hg
      obtain rfl := Option.some.inj (hf.symm.trans hfl)
      exact nomatch ho.symm.trans hn
    have ended := transfersAt_endFlight h none
    have zero : ((endFlight s).port p).reservation = 0 := by
      rw [ended.fifoOk.2.1, liveOf_endFlight]
      rfl
    exact ((Alike.refl p _).updPort (t := countReads f.count (endFlight s)) (f := fun x => { x with reservation := 0 })
      ⟨rfl, rfl, zero.symm, rfl, id⟩).transfersAt ended
  | false =>
    have live : liveOf s p = some f := liveOf_eq_some.2 ⟨hf, hw, ho⟩
    have dir : (s.pcfg p).dir = .replay := by
      cases hd : (s.pcfg p).dir with
      | replay => rfl
      | capture => exact nomatch hk.symm.trans ((h.2.2.1 f live).2.1 hd).1
    have words := h
    rw [transfersAt_def, dir, live] at words
    have working : (s.port p).state ≠ .closed ∧ (s.port p).state ≠ .faulted := by
      obtain ⟨-, -, -, -, -, -, empty, -⟩ := hs p
      constructor <;> intro e
      · exact nomatch words.live_none (empty (.inr (.inl e)))
      · exact nomatch words.live_none (empty (.inr (.inr e)))
    refine transfersAt_closeTest (transfersAt_parityPolicy _ _ ?_)
    have placed := transfers_placed words
      (ws := memReads (endFlight s).mc.mem (endFlight s).freeIndex f.addr f.count) (memReads_length _ _ _ _) working
    have same : liveOf ((countReads f.count (endFlight s)).updPort p (Port.place f.slots
        (memReads (endFlight s).mc.mem (endFlight s).freeIndex f.addr f.count))) p = none := liveOf_endFlight s p
    unfold TransfersAt
    rw [same, State.updPort_port_self, State.updPort_pcfg, countReads_pcfg, countReads_port, endFlight_port,
      endFlight_pcfg, dir]
    exact placed

/-- HOST's and REFRESH's completions touch no port's words. -/
theorem fits_otherBurst {s v : State} {f : Flight} (h : Fits s) (hf : s.mc.flight = some f)
    (hw : ∀ p, f.who ≠ .port p) (hv : Quiet (endFlight s) v) : Fits v ∧ ∀ r, liveOf v r = none := by
  have none (p : PortId) : liveOf s p = none := liveOf_eq_none fun g hg => by
    obtain rfl := Option.some.inj (hf.symm.trans hg)
    exact hw p
  have whole : Quiet s v := (quiet_of_no_live (endFlight_sc s) (endFlight_ports s) none (liveOf_endFlight s)).trans hv
  exact ⟨whole.fits h, fun r => (whole.2.2 r).2.2.trans (none r)⟩

theorem quiet_wordReadCompletion (f : Flight) (s : State) : Quiet s (wordReadCompletion f s) :=
  have read : Quiet s (countReads 1 s) := .of_eq rfl rfl rfl
  .branch (fun _ => read) fun _ => .branch (fun _ => (read.updWin _).updWin _) fun _ => read.updWin _

theorem quiet_wordWriteCompletion (f : Flight) (s : State) : Quiet s (wordWriteCompletion f s) :=
  have written : Quiet s (writeMemory f.addr (f.words.map (·.word)) s) := .of_eq rfl rfl rfl
  written.updWin _

theorem quiet_refreshCompletion (f : Flight) (s : State) : Quiet s (refreshCompletion f s) :=
  .branch (fun _ => (Quiet.refl s).updMc rfl) fun _ => .refl s

theorem quiet_fillCompletion (f : Flight) (s : State) : Quiet s (fillCompletion f s) := by
  have written : Quiet s (writeMemory f.addr (f.words.map (·.word)) s) := .of_eq rfl rfl rfl
  unfold fillCompletion
  dsimp only
  split
  · exact (written.updSeq _).chunkEnd
  all_goals exact written

theorem quiet_crcCompletion (f : Flight) (s : State) : Quiet s (crcCompletion f s) := by
  have read : Quiet s (countReads f.count s) := .of_eq rfl rfl rfl
  unfold crcCompletion
  dsimp only
  split
  · exact (read.updSeq _).chunkEnd
  all_goals exact read

theorem portBurst_kind {k : Kind} {f : Flight} (h : portBurst k f = true) : f.kind = k := by
  simp only [portBurst, Bool.and_eq_true, beq_iff_eq] at h
  exact h.1

theorem processed_fits {s v : State} {f : Flight} (h : Fits s) (hs : PortsSound s) (hf : s.mc.flight = some f)
    (hv : Processed f (endFlight s) v) : Fits v ∧ ∀ r, liveOf v r = none := by
  have host {k : Kind} (hb : hostBurst k f = true) (p : PortId) : f.who ≠ .port p := by simp [hostBurst_who hb]
  rcases hv with ⟨hb, rfl⟩ | ⟨hb, rfl⟩ | ⟨hb, rfl⟩ | ⟨hb, rfl⟩ | ⟨hb, rfl⟩ | ⟨hb, rfl⟩ | ⟨hb, rfl⟩
  · obtain ⟨p, hw⟩ := portBurst_who hb
    exact fits_portBurst h hf hw ((PortWork.refl p _).captureCompletion hw)
      (transfersAt_captureCompletion (h.2 p) hf hw (portBurst_kind hb))
  · obtain ⟨p, hw⟩ := portBurst_who hb
    exact fits_portBurst h hf hw ((PortWork.refl p _).replayCompletion hw)
      (transfersAt_replayCompletion (h.2 p) hs hf hw (portBurst_kind hb))
  · exact fits_otherBurst h hf (host hb) (quiet_wordReadCompletion f _)
  · exact fits_otherBurst h hf (host hb) (quiet_wordWriteCompletion f _)
  · exact fits_otherBurst h hf (by simp [hb]) (quiet_refreshCompletion f _)
  · exact fits_otherBurst h hf (host hb) (quiet_fillCompletion f _)
  · exact fits_otherBurst h hf (host hb) (quiet_crcCompletion f _)

theorem Quiet.no_live {s t : State} (h : Quiet s t) (hs : ∀ p, liveOf s p = none) (p : PortId) : liveOf t p = none :=
  (h.2.2 p).2.2.trans (hs p)

theorem fits_abortExecuted {p : PortId} {s : State} (h : Fits s) (hn : ∀ r, liveOf s r = none) :
    Fits (finish .ok {} (closeGrant (abortPort p s))) ∧
      ∀ r, liveOf (finish .ok {} (closeGrant (abortPort p s))) r = none := by
  have work := (PortWork.refl p s).abortPort
  have ended := (quiet_closeGrant (abortPort p s)).finish .ok {}
  exact ⟨ended.fits (work.fits h (transfersAt_abortPort (h.2 p) (hn p))), ended.no_live (work.live_none hn)⟩

theorem fits_afterCompletion {w : Requester} {s : State} (h : Fits s) (hn : ∀ p, liveOf s p = none) :
    Fits (afterCompletion w s) := by
  unfold afterCompletion
  split
  · obtain ⟨hf, hl⟩ := fits_abortExecuted h hn
    exact fits_deferredReset hf hl
  · exact fits_deferredReset ((quiet_closeGrant s).fits h) ((quiet_closeGrant s).no_live hn)

/-! ### The initialisation sequence (R44 to R46) -/

theorem initStep_flight (s : State) : ∀ f, (initStep s).mc.flight = some f → s.mc.flight = some f ∨ f.who = .controller := by
  intro f hf
  unfold initStep at hf
  split at hf
  · split at hf
    · obtain rfl := Option.some.inj hf
      exact .inr rfl
    · cases hf
  all_goals exact .inl hf

theorem fits_initStep {s : State} {f : Flight} (h : Fits s) (hf : s.mc.flight = some f) (hw : f.who = .controller) :
    Fits (deferredReset (initStep s)) := by
  have before : ∀ g, s.mc.flight = some g → g.who = .controller := fun g hg => by
    obtain rfl := Option.some.inj (hf.symm.trans hg)
    exact hw
  have after : ∀ g, (initStep s).mc.flight = some g → g.who = .controller := fun g hg =>
    (initStep_flight s g hg).elim (before g) id
  have same : (initStep s).sc = s.sc ∧ (initStep s).ports = s.ports := by
    unfold initStep
    split
    · split <;> exact ⟨rfl, rfl⟩
    all_goals exact ⟨rfl, rfl⟩
  exact fits_deferredReset
    ((quiet_of_no_live same.1 same.2 (no_live_of_controller before) (no_live_of_controller after)).fits h) (no_live_of_controller after)

/-- Every port is CLOSED and holds nothing. -/
def Vacant (s : State) : Prop := ∀ p, (s.port p).state = .closed ∧ (s.port p).queue = [] ∧ (s.port p).fifo = [] ∧
  (s.port p).reservation = 0 ∧ (s.port p).fetch = none ∧ liveOf s p = none

/-- Off an ARMED device nothing is in transfer. -/
theorem Fits.vacant {s : State} (h : Fits s) (hs : PortsSound s) (hd : s.sc.device ≠ .armed) : Vacant s := by
  intro p
  have closed : (s.port p).state = .closed := by
    by_contra e
    exact hd (h.1.2 p e).1
  obtain ⟨-, -, -, -, -, -, empty, cursor, -⟩ := hs p
  have queue := empty (.inr (.inl closed))
  obtain ⟨-, -, fetch, -⟩ := cursor (.inl closed)
  have live := (h.2 p).live_none queue
  obtain ⟨-, res, fifo⟩ := (h.2 p).fifoOk
  rw [live] at res
  exact ⟨closed, queue, fifo (.inl closed), res, fetch, live⟩

theorem Vacant.fits {s : State} (h : Vacant s) (hc : s.sc.device ≠ .setup → LegalCfg s.sc.cfg) : Fits s := by
  refine ⟨⟨hc, fun p e => absurd (h p).1 e⟩, fun p => ?_⟩
  obtain ⟨-, queue, fifo, res, fetch, live⟩ := h p
  rw [transfersAt_def, live]
  exact .empty _ queue fifo res fetch

theorem Vacant.quiet {s t : State} (h : Vacant s) (k : Quiet s t) : Vacant t := by
  intro p
  obtain ⟨closed, queue, fifo, res, fetch, live⟩ := h p
  obtain ⟨⟨hq, hf, hr, hc, -⟩, hs, hl⟩ := k.2.2 p
  exact ⟨hs closed, hq.trans queue, hf.trans fifo, hr.trans res, hc.trans fetch, hl.trans live⟩

theorem vacant_issuePrecharge {s : State} (h : Vacant s) : Vacant (issuePrecharge s) := by
  intro p
  obtain ⟨closed, queue, fifo, res, fetch, -⟩ := h p
  refine ⟨closed, queue, fifo, res, fetch, no_live_of_controller (fun f hf => ?_) p⟩
  obtain rfl := Option.some.inj hf
  rfl

theorem vacant_startInit {s : State} (h : Vacant s) : Vacant (startInit s) := by
  unfold startInit
  split
  · exact h
  · exact h
  · exact vacant_issuePrecharge (h.quiet ((Quiet.refl s).updMc rfl))
  · have dropped : Quiet s (dropWindow (s.updMc fun m =>
        { m with state := .init, owed := 0, intervalCount := 0, lossEpisode := false })) :=
      ((Quiet.refl s).updMc rfl).dropWindow
    have ended : Quiet s (if memCommandRunning s && !chunkGranted s then
        endMemCommand .notAwake (dropWindow (s.updMc fun m =>
          { m with state := .init, owed := 0, intervalCount := 0, lossEpisode := false }))
        else dropWindow (s.updMc fun m => { m with state := .init, owed := 0, intervalCount := 0, lossEpisode := false })) :=
      .branch (fun _ => dropped.endMemCommand _) fun _ => dropped
    dsimp only
    split
    · exact h.quiet (ended.updMc rfl)
    · exact vacant_issuePrecharge (h.quiet ended)

theorem startInit_sc (s : State) : (startInit s).sc = s.sc := by
  have dropped (t : State) : (dropWindow t).sc = t.sc := by
    unfold dropWindow
    dsimp only
    split <;> split <;> rfl
  have ended (r : Result) (t : State) : (endMemCommand r t).sc = t.sc := by
    unfold endMemCommand
    split <;> rfl
  unfold startInit
  split
  · rfl
  · rfl
  · rfl
  · dsimp only
    split <;> split <;> simp [issuePrecharge, dropped, ended]

/-! ### A tick (R176) -/

theorem quiet_riseAtInterval (s : State) : Quiet s (riseAtInterval s) := by
  have counted : Quiet s (s.updMc fun m => { m with intervalCount := 0 }) := (Quiet.refl s).updMc rfl
  have lost : Quiet s ((s.updMc fun m => { m with intervalCount := 0 }).updMc fun m =>
    { m with memSuspect := true, lossEpisode := true, mem := [] }) := counted.updMc rfl
  exact .branch (fun _ => counted.updMc rfl) fun _ => .branch (fun _ => lost) fun _ => (lost.updEu _).updEu _

theorem quiet_tickRefresh (s : State) : Quiet s (tickRefresh s) :=
  .branch (fun _ => .branch (fun _ => quiet_riseAtInterval s) fun _ => (Quiet.refl s).updMc rfl) fun _ => .refl s

theorem fits_tickLinkIdle (p : PortId) {s : State} (h : Fits s) : Fits (tickLinkIdle p s) :=
  (PortWork.refl p s).tickLinkIdle.fits h (transfersAt_tickLinkIdle (h.2 p))

theorem fits_tickSteps {s : State} (h : Fits s) : Fits (tickSteps s) := by
  have refreshed : Fits (tickRefresh (tickCount s)) :=
    (((Quiet.refl s).updTb _).trans (quiet_tickRefresh (tickCount s))).fits h
  unfold tickSteps
  exact fits_tickLinkIdle _ (fits_tickLinkIdle _ (fits_tickLinkIdle _ (fits_tickLinkIdle _ refreshed)))

/-! ### The end of an instant (R56, R62 to R69, R108) -/

theorem lowest_mem (c : Candidate) (cs : List Candidate) : lowest c cs ∈ c :: cs := by
  induction cs generalizing c with
  | nil => exact List.mem_singleton.2 rfl
  | cons d ds ih =>
    have := ih (if d.level < c.level then d else c)
    simp only [lowest, List.mem_cons] at this ⊢
    split at this <;> grind

theorem winner_mem {a : Arbiter} {cs : List Candidate} {c : Candidate} (h : winner a cs = some c) : c ∈ cs := by
  unfold winner at h
  split at h
  · cases h
  next d ds hf =>
    obtain rfl := Option.some.inj h
    exact (List.mem_filter.1 (hf ▸ lowest_mem d ds)).1

/-- A port among the gated requests makes a request of its own. -/
theorem request_of_candidate {s : State} {c : Candidate} {p : PortId} (h : c ∈ candidates s) (hw : c.who = .port p) :
    (s.port p).request = some c.urg := by
  have gated {r : PortId} (hr : c.who = .port r) (hg : (s.port r).gated = some c.urg) : (s.port p).request = some c.urg := by
    obtain rfl := Requester.port.inj (hr.symm.trans hw)
    unfold Port.gated at hg
    split at hg
    · exact hg
    · cases hg
  simp only [candidates, List.mem_append, mem_asking] at h
  rcases h with ((((⟨hc, -⟩ | ⟨hc, -⟩) | ⟨hc, hg, -⟩) | ⟨hc, hg, -⟩) | ⟨hc, hg, -⟩) | ⟨hc, hg, -⟩
  · exact nomatch hc.symm.trans hw
  · exact nomatch hc.symm.trans hw
  all_goals exact gated hc hg

theorem captureRequest_eq_some {k : PortCfg} {x : Port} {u : Urgency} (h : captureRequest k x = some u) :
    ∃ e t, x.queue = e :: t ∧ 1 ≤ x.fifo.length := by
  unfold captureRequest at h
  split at h
  · cases h
  next e t hq =>
    dsimp only at h
    split at h
    next hc =>
      simp only [Bool.and_eq_true, decide_eq_true_eq] at hc
      exact ⟨e, t, hq, hc.1.2⟩
    · cases h

theorem replayRequest_eq_some {k : PortCfg} {x : Port} {u : Urgency} (h : replayRequest k x = some u) :
    ∃ c e, x.fetched = some (c, e) ∧ x.state = .active ∧ min k.normalWm (e.desc.length - c.off) ≤ x.freeSpace := by
  unfold replayRequest at h
  split at h
  next c e hf =>
    split at h
    next hc =>
      simp only [Bool.and_eq_true, beq_iff_eq, decide_eq_true_eq] at hc
      exact ⟨c, e, hf, hc.1.1, hc.2⟩
    · cases h
  · cases h

/-- What a port requests once the part has settled. -/
theorem requestOf_of_settled {s : State} {p : PortId} {u : Urgency} (h : ((settlePorts s).port p).request = some u) :
    requestOf (s.pcfg p) false ((settlePorts s).port p) = some u := by
  rw [settlePorts_port] at h ⊢
  have again := congrArg Port.request (settlePort_settlePort (s.pcfg p) (abortWaits s p) (s.port p))
  rw [settlePort, releaseStop_settlePort, h] at again
  have live : abortWaits s p = false := by
    by_contra e
    simp [requestOf, Bool.not_eq_false _ ▸ e] at again
  rw [live] at again ⊢
  exact again

/-- A transaction begins that is no port's. -/
theorem quiet_begin {c : Candidate} {f : Flight} {s : State} (hn : s.mc.flight = none) (hw : ∀ p, f.who ≠ .port p) :
    Quiet s (begin c f s) := by
  refine quiet_of_no_live rfl rfl (liveOf_none hn) fun p => liveOf_eq_none fun g hg => ?_
  obtain rfl := Option.some.inj hg
  exact hw p

/-- A transaction of port p begins, with its words reserved or taken. -/
theorem fits_begin {c : Candidate} {f : Flight} {s t : State} {p : PortId} (h : Fits s) (hn : s.mc.flight = none)
    (work : PortWork p s t) (hw : f.who = .port p) (ho : f.orphan = false)
    (hp : Transfers (s.pcfg p).dir (t.port p) (some f)) : Fits (begin c f t) := by
  refine ⟨work.configuration h.1, fun r => ?_⟩
  have cfg : (begin c f t).pcfg r = s.pcfg r := work.pcfg_eq r
  by_cases hr : r = p
  · subst hr
    have live : liveOf (begin c f t) r = some f := liveOf_eq_some.2 ⟨rfl, hw, ho⟩
    rw [transfersAt_def, cfg, live]
    exact hp
  · have live : liveOf (begin c f t) r = none := liveOf_eq_none fun g hg => by
      obtain rfl := Option.some.inj hg
      rw [hw]
      exact fun e => hr (Requester.port.inj e).symm
    have same : (begin c f t).port r = s.port r := work.others hr
    have before := h.2 r
    rw [transfersAt_def, liveOf_none hn] at before
    rw [transfersAt_def, cfg, live, same]
    exact before

theorem fits_grantCapture {c : Candidate} {s : State} {p : PortId} (h : Fits s) (hn : s.mc.flight = none)
    (hd : (s.pcfg p).dir = .capture) (hr : 1 ≤ (s.port p).fifo.length) : Fits (grantCapture c p s) := by
  unfold grantCapture
  dsimp only
  split
  · exact h
  next e t hq =>
    refine fits_begin h hn ((PortWork.refl p s).updPort id) rfl rfl ?_
    have before := h.2 p
    rw [transfersAt_def, liveOf_none hn, hd] at before
    rw [State.updPort_port_self, hd]
    exact transfers_grantCapture before hq hr rfl rfl rfl

theorem fits_grantReplay {c : Candidate} {s : State} {p : PortId} (h : Fits s) (hn : s.mc.flight = none)
    (hd : (s.pcfg p).dir = .replay) (hx : (s.port p).state = .active)
    (hr : ∀ a e, (s.port p).fetched = some (a, e) → min (s.pcfg p).normalWm (e.desc.length - a.off) ≤ (s.port p).freeSpace) :
    Fits (grantReplay c p s) := by
  unfold grantReplay
  dsimp only
  split
  · exact h
  next a e hf =>
    have before := h.2 p
    rw [transfersAt_def, liveOf_none hn, hd] at before
    obtain ⟨hfetch, hget⟩ := fetched_eq_some hf
    have inside : a.off < e.desc.length := by
      obtain ⟨e', he', -, -, hoff, -⟩ := before.cursorOk.1 a hfetch
      obtain rfl := Option.some.inj (hget.symm.trans he')
      exact hoff
    have watermark : 1 ≤ (s.pcfg p).normalWm := by
      obtain ⟨armed, present⟩ := h.1.2 p (by simp [hx])
      exact ((h.1.1 (by simp [armed])).ports p present).watermarks.1
    have room := hr a e hf
    have burst := burst_pos (s.pcfg p)
    have bounds : 1 ≤ replayCount (s.pcfg p) (s.port p) a e ∧ replayCount (s.pcfg p) (s.port p) a e ≤ (s.port p).freeSpace ∧
        a.off + replayCount (s.pcfg p) (s.port p) a e ≤ e.desc.length := by
      unfold replayCount
      omega
    obtain ⟨hone, hfree, hlen⟩ := bounds
    refine fits_begin h hn ((PortWork.refl p s).updPort (f := Port.fetchGranted a e _) id) rfl rfl ?_
    rw [State.updPort_port_self, hd]
    exact transfers_grantReplay before hf hone hfree hlen (by simp [hx]) rfl rfl rfl

theorem fits_grant {c : Candidate} {s t : State} (h : Fits t) (hn : t.mc.flight = none) (hports : t.ports = (settlePorts s).ports)
    (hsc : t.sc = s.sc) (hc : c ∈ candidates t) : Fits (grant c t) := by
  unfold grant
  split
  · exact (quiet_begin hn (by simp)).fits h
  · unfold grantHost
    split
    next w _ => exact (quiet_begin hn fun p => by simp [hostFlight_who w]).fits h
    · exact h
  next p hw =>
    have same : t.port p = (settlePorts s).port p := congrArg (·.get p) hports
    have cfg : t.pcfg p = s.pcfg p := by simp only [State.pcfg, hsc]
    have asks := request_of_candidate hc hw
    rw [same] at asks
    have request := requestOf_of_settled asks
    simp only [requestOf, Bool.false_eq_true, if_false, ← cfg, ← same] at request
    split
    next hd =>
      rw [hd] at request
      obtain ⟨-, -, -, hr⟩ := captureRequest_eq_some request
      exact fits_grantCapture h hn hd hr
    next hd =>
      rw [hd] at request
      obtain ⟨a, e, hf, hx, hr⟩ := replayRequest_eq_some request
      refine fits_grantReplay h hn hd hx fun a' e' hf' => ?_
      obtain ⟨rfl, rfl⟩ := Prod.mk.inj (Option.some.inj (hf.symm.trans hf'))
      exact hr
  · exact h

theorem quiet_release (s : State) : Quiet s (release s) := .branch (fun _ => (Quiet.refl s).updMa _) fun _ => .refl s

theorem release_frame_eq (s : State) : (release s).mc = s.mc ∧ (release s).ports = s.ports ∧ (release s).sc = s.sc := by
  unfold release
  split <;> exact ⟨rfl, rfl, rfl⟩

theorem fits_arbitrate {s : State} (h : Fits s) : Fits (arbitrate s) := by
  unfold arbitrate
  split
  next held =>
    simp only [pointHeld, Bool.and_eq_true, Option.isNone_iff_eq_none] at held
    obtain ⟨⟨-, hn⟩, -⟩ := held
    obtain ⟨hmc, hports, hsc⟩ := release_frame_eq (settlePorts s)
    have ready := (quiet_release _).fits ((quiet_settlePorts s).fits h)
    dsimp only
    split
    next c hc => exact fits_grant ready (hmc ▸ hn) hports hsc (winner_mem hc)
    · exact ready
  · exact h

theorem fits_enterSleep {s : State} (h : Fits s) (hc : ControllerSound s) (hd : sleepDue s = true) :
    Fits (enterSleep s) := by
  obtain ⟨⟨-, -, -, -, d5⟩, -⟩ := hc
  simp only [sleepDue, Bool.and_eq_true] at hd
  obtain ⟨armed, closed⟩ := d5 hd.1.1.1
  have dropped : Quiet s ((dropWindow (s.updMc fun m => { m with state := .sleep, sleepRequest := false })).updMc
      fun m => { m with intervalCount := 0 }) := ((Quiet.refl s).updMc rfl).dropWindow.updMc rfl
  obtain ⟨⟨hl, -⟩, ht⟩ := dropped.fits h
  refine (quiet_finish _ _ _).fits ⟨⟨fun _ => hl ?_, fun p e => absurd ((dropped.2.2 p).2.1 (closed p)) e⟩, ht⟩
  rw [dropped.2.1, armed]
  nofun

/-! ### Commands (Chapter 9) -/

theorem fits_device {s : State} {d : Device} (h : Fits s) (hl : d ≠ .setup → LegalCfg s.sc.cfg)
    (ho : d ≠ .armed → AllClosed s) : Fits (s.updSc fun c => { c with device := d }) := by
  refine ⟨⟨hl, fun p e => ⟨?_, (h.1.2 p e).2⟩⟩, h.2⟩
  by_contra hd
  exact e (ho hd p)

theorem fits_cmdArm {s : State} (h : Fits s) : Fits (cmdArm s) := by
  unfold cmdArm
  split
  · exact (quiet_finish _ _ _).fits h
  next hc =>
    obtain ⟨-, legal⟩ := (armCheckPassesExactlyLegalConfigurations s).1 hc
    have armed : Fits (s.updSc fun c => { c with device := .armed }) :=
      fits_device h (fun _ => legal) fun e => absurd rfl e
    have cleared : Quiet (s.updSc fun c => { c with device := .armed }) (clearXen (s.updSc fun c => { c with device := .armed })) := by
      refine Quiet.mapPorts fun p => ?_
      rw [Quad.get_map]
      exact ⟨⟨rfl, rfl, rfl, rfl, id⟩, id⟩
    exact ((cleared.updMa _).finish _ _).fits armed

theorem fits_cmdDisarm {s : State} (h : Fits s) : Fits (cmdDisarm s) := by
  unfold cmdDisarm
  split
  next hc =>
    have setup : Fits (s.updSc fun c => { c with device := .setup }) :=
      fits_device h (fun e => absurd rfl e) fun _ => (allClosed_iff s).1 hc
    exact (((Quiet.refl _).updMa _).finish _ _).fits setup
  · exact (quiet_finish _ _ _).fits h

theorem quiet_cmdDoze (s : State) : Quiet s (cmdDoze s) :=
  .branch (fun _ => ((Quiet.refl s).updSeq _).updMc rfl) fun _ => quiet_finish _ _ _

theorem fits_cmdWake {s : State} (h : Fits s) (hd : s.sc.device ≠ .setup) : Fits (cmdWake s) := by
  have awake : Fits (s.updMc fun m => { m with state := .ready, owed := 0, intervalCount := 0 }) :=
    ((Quiet.refl s).updMc rfl).fits h
  exact (quiet_finish _ _ _).fits (fits_device awake (fun _ => h.1.1 hd) fun e => absurd rfl e)

theorem fits_cmdPortOpen {p : PortId} {s : State} (h : Fits s) (hs : PortsSound s) (hx : (s.port p).state = .closed)
    (hd : s.sc.device = .armed) (hp : (s.pcfg p).present = true) : Fits (cmdPortOpen p s) := by
  obtain ⟨-, -, -, -, -, -, empty, -⟩ := hs p
  have live : liveOf s p = none := (h.2 p).live_none (empty (.inr (.inl hx)))
  have opened : Fits (s.updPort p fun _ => openedPort) := by
    refine ⟨⟨h.1.1, fun r e => ?_⟩, fun r => ?_⟩
    · by_cases hr : r = p
      · subst hr
        exact ⟨hd, hp⟩
      · rw [State.updPort_port_ne _ _ hr] at e
        exact h.1.2 r e
    · by_cases hr : r = p
      · subst hr
        have same : liveOf (s.updPort r fun _ => openedPort) r = none := live
        rw [transfersAt_def, same, State.updPort_port_self]
        exact .empty _ rfl rfl rfl rfl
      · have same : liveOf (s.updPort p fun _ => openedPort) r = liveOf s r := rfl
        rw [transfersAt_def, same, State.updPort_port_ne _ _ hr]
        exact h.2 r
  exact (((Quiet.refl _).updMa _).finish _ _).fits opened

theorem fits_cmdPortClose {p : PortId} {s : State} (h : Fits s) (hs : PortsSound s) (hx : (s.port p).state ≠ .closed) :
    Fits (cmdPortClose p s) := by
  have closing : PortWork p s (s.updPort p Port.enterClosing) := (PortWork.refl p s).updPort fun e => absurd e hx
  have begun : TransfersAt (s.updPort p Port.enterClosing) p :=
    ((Alike.refl p s).updPort ⟨rfl, rfl, rfl, rfl, by simp [Port.enterClosing]⟩).transfersAt (h.2 p)
  refine (quiet_finish _ _ _).fits ?_
  split
  next hf =>
    obtain ⟨-, -, -, -, -, -, empty, -⟩ := hs p
    refine ((PortWork.refl p s).enterClosed _ _).fits h ?_
    rw [enterClosed_eq_shut]
    exact transfersAt_shut _ _ ((h.2 p).live_none (empty (.inr (.inr hf))))
  · refine closing.closeNow.fits h ?_
    unfold closeNow
    split
    next hd => exact transfersAt_closeEnd (liveOf_of_drainEnded begun hd)
    · split
      · exact transfersAt_abandon _ _
      · exact begun

theorem liveOf_of_liveFlight {s : State} {p : PortId} (h : ¬ liveFlight s p = true) : liveOf s p = none := by
  rw [Option.eq_none_iff_forall_ne_some]
  intro f hf
  obtain ⟨hfl, hw, ho⟩ := liveOf_eq_some.1 hf
  exact h (by simp [liveFlight, hfl, hw, ho])

theorem fits_cmdPortAbort {p : PortId} {s : State} (h : Fits s) : Fits (cmdPortAbort p s) := by
  unfold cmdPortAbort
  split
  · exact ((Quiet.refl s).updSeq _).fits h
  next hl =>
    exact (quiet_finish _ _ _).fits
      ((PortWork.refl p s).abortPort.fits h (transfersAt_abortPort (h.2 p) (liveOf_of_liveFlight hl)))

/-- What SEG_POST's format check has established (R166). -/
theorem descOk_of_format {d : Dir} {a : Args} (h : segFormatOk d a = true) : DescOk d (segPostDesc a) := by
  simp only [segFormatOk, Bool.and_eq_true, bne_iff_ne, Bool.or_eq_true, beq_iff_eq] at h
  obtain ⟨⟨⟨⟨-, hl⟩, -⟩, hr⟩, hz⟩ := h
  refine ⟨Nat.one_le_iff_ne_zero.2 hl, ?_, fun hd => ?_⟩
  · cases hp : (segPostDesc a).rpt with
    | none => exact le_rfl
    | some n =>
      rw [hp] at hz
      exact Nat.one_le_iff_ne_zero.2 (by simpa using hz)
  · rcases hr with hr | hr
    · simpa using hr
    · exact nomatch hd.symm.trans hr

theorem sameWords_activate (x : Port) : SameWords x x.activate := by
  unfold Port.activate
  split
  · exact ⟨rfl, rfl, rfl, rfl, by simp⟩
  · exact .refl x

theorem fits_cmdSegPost {p : PortId} {s : State} (h : Fits s) : Fits (cmdSegPost p s) := by
  unfold cmdSegPost
  dsimp only
  split
  · exact (quiet_finish _ _ _).fits h
  next hf =>
    split
    · exact (quiet_finish _ _ _).fits h
    · split
      · exact (quiet_finish _ _ _).fits h
      · have work : PortWork p s (s.updPort p fun x =>
            (x.append (s.pcfg p).dir (segPostDesc s.hp.seq.latched.args)).activate) := by
          refine (PortWork.refl p s).updPort fun e => ?_
          have closed : ((s.port p).append (s.pcfg p).dir (segPostDesc s.hp.seq.latched.args)).state = .closed := e
          unfold Port.activate
          rw [if_neg (by simp [closed])]
          exact closed
        refine (quiet_finish _ _ _).fits (work.fits h ?_)
        rw [transfersAt_def, State.updPort_port_self]
        exact ((h.2 p).append (descOk_of_format (Bool.not_eq_false _ ▸ hf))).congr (sameWords_activate _)

theorem fits_cmdSegFlush {p : PortId} {s : State} (h : Fits s) : Fits (cmdSegFlush p s) := by
  have cancelled : PortWork p s (cancelAll p .flush (flushSplit (s.pcfg p).dir (s.port p).queue).2 s) := by
    rw [cancelAll_eq_postAll]
    exact (PortWork.refl p s).postAll _
  refine (quiet_finish _ _ _).fits ((cancelled.updPort fun e => ?_).fits h ?_)
  · rw [cancelAll_port] at e ⊢
    unfold Port.flushed
    rw [Port.idleIfEmpty, if_neg (by simp [e])]
    exact e
  · have same : liveOf ((cancelAll p .flush (flushSplit (s.pcfg p).dir (s.port p).queue).2 s).updPort p
        (Port.flushed (s.pcfg p).dir)) p = liveOf s p := liveOf_congr (by simp) p
    rw [transfersAt_def, same, State.updPort_port_self, State.updPort_pcfg, cancelAll_pcfg, cancelAll_port]
    exact transfers_flushed (h.2 p)

theorem fits_cmdMarkRead {p : PortId} {s : State} (h : Fits s) : Fits (cmdMarkRead p s) := by
  unfold cmdMarkRead
  split
  · exact (quiet_finish _ _ _).fits h
  · split
    · exact (quiet_finish _ _ _).fits h
    next rest _ =>
      exact (quiet_finish _ _ _).fits (((PortWork.refl p s).updPort id).fits h
        (((Alike.refl p s).updPort (f := fun x => { x with marks := rest, overwrites := 0 })
          ⟨rfl, rfl, rfl, rfl, id⟩).transfersAt (h.2 p)))

theorem fits_cmdMemFill {s : State} (h : Fits s) : Fits (cmdMemFill s) := by
  unfold cmdMemFill
  dsimp only
  split
  · exact (quiet_finish _ _ _).fits h
  · split
    · exact (quiet_finish _ _ _).fits h
    · exact (((Quiet.refl s).updSeq _).fits h).discardLatch

theorem fits_cmdRegionCrc {s : State} (h : Fits s) : Fits (cmdRegionCrc s) := by
  unfold cmdRegionCrc
  dsimp only
  split
  · exact (quiet_finish _ _ _).fits h
  · exact (((Quiet.refl s).updSeq _).fits h).discardLatch

theorem fits_cmdEffect {s : State} {c : Cmd} {p : PortId} (hc : commonCheck s c p = none) (h : Fits s) (hs : PortsSound s) :
    Fits (cmdEffect c p s) := by
  have device := device_of_commonCheck hc
  cases c with
  | nop => exact (quiet_finish _ _ _).fits h
  | arm => exact fits_cmdArm h
  | disarm => exact fits_cmdDisarm h
  | doze => exact (quiet_cmdDoze s).fits h
  | wake => exact fits_cmdWake h (by cases hd : s.sc.device <;> simp_all [deviceCheck])
  | portOpen =>
    obtain ⟨present, -, hx⟩ := admitted_of_commonCheck (code := 0x20) rfl rfl hc
    exact fits_cmdPortOpen h hs (by simpa using hx) (by cases hd : s.sc.device <;> simp_all [deviceCheck]) present
  | portClose =>
    obtain ⟨-, -, hx⟩ := admitted_of_commonCheck (code := 0x21) rfl rfl hc
    exact fits_cmdPortClose h hs fun e => by simp [e] at hx
  | portAbort => exact fits_cmdPortAbort h
  | segPost => exact fits_cmdSegPost h
  | segFlush => exact fits_cmdSegFlush h
  | queueStatus => exact (quiet_finish _ _ _).fits h
  | markRead => exact fits_cmdMarkRead h
  | memFill => exact fits_cmdMemFill h
  | regionCrc => exact fits_cmdRegionCrc h

theorem fits_writeCmd {s : State} (w : Word) (h : Fits s) (hs : PortsSound s) : Fits (writeCmd w s) := by
  have latched : Fits (latchCommand w s) := ((Quiet.refl s).updSeq _).fits h
  unfold writeCmd
  split
  · exact ((Quiet.refl s).updSeq _).fits h
  · unfold runLatched
    dsimp only
    split
    · exact (quiet_finish _ _ _).fits latched
    · split
      · exact (quiet_finish _ _ _).fits latched
      next hc => exact fits_cmdEffect hc latched hs

/-! ### Registers (Chapter 1) -/

theorem fits_requestSoftReset {s : State} (h : Fits s) : Fits (requestSoftReset s) := by
  unfold requestSoftReset
  split
  · exact h
  · split
    · exact h
    next hf => exact fits_softReset (liveOf_none (by simpa using hf))

theorem quiet_requestCancel (s : State) : Quiet s (requestCancel s) := by
  have ends (f : Sequencer → Sequencer) : Quiet s (if chunkGranted s then s.updSeq f else
      endMemCommand .cancelled (s.updSeq f)) :=
    .branch (fun _ => (Quiet.refl s).updSeq f) fun _ => ((Quiet.refl s).updSeq f).endMemCommand _
  unfold requestCancel
  split
  · exact .branch (fun _ => .refl s) fun _ => ends _
  · exact .branch (fun _ => .refl s) fun _ => ends _
  all_goals exact .refl s

theorem quiet_xen {s : State} {f : PortId → Port → Port}
    (hf : ∀ p x, f p x = x ∨ ∃ b, f p x = { x with xen := b }) : Quiet s { s with ports := s.ports.map f } := by
  refine Quiet.mapPorts fun p => ?_
  rw [Quad.get_map]
  rcases hf p (s.ports.get p) with e | ⟨b, e⟩
  · rw [e]
    exact ⟨.refl _, id⟩
  · rw [e]
    exact ⟨⟨rfl, rfl, rfl, rfl, id⟩, id⟩

theorem fits_writeWinAddrHi {s : State} (w : Word) (h : Fits s) : Fits (writeWinAddrHi w s) := by
  have moved := (((Quiet.refl s).updWin fun x =>
    { x with addr := w.extractLsb' 0 6 ++ x.addr.extractLsb' 0 16 }).fits h).discardLatch
  unfold writeWinAddrHi
  dsimp only
  split
  · exact ((Quiet.refl _).updWin _).fits moved
  · exact ((Quiet.refl _).updWin _).fits moved

theorem fits_writeWinData {s : State} (w : Word) (h : Fits s) : Fits (writeWinData w s) := by
  unfold writeWinData
  split
  · exact ((Quiet.refl s).updWin _).fits h
  · exact (((Quiet.refl s).updWin _).fits h).discardLatch

theorem quiet_readWinData (s : State) : Quiet s (readWinData s) := by
  unfold readWinData
  split
  · dsimp only
    split
    · exact (Quiet.refl s).updWin _
    · exact ((Quiet.refl s).updWin _).updWin _
  all_goals exact (Quiet.refl s).updWin _

/-- The configuration changes in SETUP only, where no port holds anything. -/
theorem fits_writeCfgData {s : State} (w : Word) (h : Fits s) (hs : PortsSound s) : Fits (writeCfgData w s) := by
  rw [writeCfgData_eq]
  split
  · exact ((Quiet.refl s).updHp _).fits h
  next hr =>
    have setup : s.sc.device = .setup := by
      simp only [cfgWriteRefused, Bool.or_eq_true, bne_iff_ne, not_or, not_not] at hr
      exact hr.1
    have vacant : Vacant (cfgStored w s) := h.vacant hs (by simp [setup])
    have fits {t : State} (hv : Vacant t) (hsc : t.sc = (cfgStored w s).sc) : Fits t :=
      hv.fits fun e => absurd (by rw [hsc]; exact setup) e
    rw [cfgWriteActs_eq]
    split
    · split
      · exact fits (vacant_startInit vacant) (startInit_sc _)
      · exact fits vacant rfl
    · split
      · exact fits vacant rfl
      · split
        · split <;> exact fits vacant rfl
        · exact fits vacant rfl

theorem fits_writeRegister {s : State} (off : BitVec 6) (w : Word) (h : Fits s) (hs : PortsSound s) :
    Fits (writeRegister off w s) := by
  have k := Quiet.refl s
  unfold writeRegister
  split
  · unfold writeDevCtrl
    split
    · exact fits_requestSoftReset h
    · split
      · exact (quiet_requestCancel s).fits h
      · exact h
  · exact fits_writeCmd w h hs
  iterate 8 exact (k.updSeq _).fits h
  · exact (quiet_xen fun p x => by split <;> simp).fits h
  · exact (quiet_xen fun p x => by split <;> simp).fits h
  iterate 3 exact (k.updEu _).fits h
  · exact ((k.updWin _).fits h).discardLatch
  · exact fits_writeWinAddrHi w h
  · exact fits_writeWinData w h
  · exact (k.updWin _).fits h
  · exact (k.updHp _).fits h
  · exact fits_writeCfgData w h hs
  · exact h

theorem quiet_readEffect (off : BitVec 6) (s : State) : Quiet s (readEffect off s) := by
  unfold readEffect
  split
  iterate 2 exact .of_eq rfl rfl rfl
  · exact (Quiet.refl s).updEu _
  · unfold popEvent
    split
    · exact .refl s
    · exact (Quiet.refl s).updEu _
  · exact quiet_readWinData s
  · exact .refl s

/-! ### Every step -/

theorem event_fits {s u : State} (h : Fits s) (hs : PortsSound s) (hc : ControllerSound s) (hu : Effect s u) :
    Fits (settle u) := by
  refine (quiet_settle u).fits ?_
  rcases hu with rfl | ⟨off, w, -, rfl⟩ | ⟨off, rfl⟩ | rfl | ⟨p, w, m, rfl⟩ | ⟨p, rfl⟩ | ⟨p, rfl⟩ | rfl | ⟨hr, rfl⟩ |
    ⟨p, -, rfl⟩ | ⟨f, v, hf, hv, rfl⟩ | ⟨f, hf, hw, rfl⟩ | rfl | ⟨hd, rfl⟩ | ⟨hf, rfl⟩ | ⟨p, ha, hf, rfl⟩ | ⟨p, rfl⟩
  · exact h
  · exact fits_writeRegister off w h hs
  · exact ((quiet_readEffect off s).updHp _).fits h
  · exact ((Quiet.refl s).updHp _).fits h
  · exact ((PortWork.refl p s).captureBeat w m).fits h (transfersAt_captureBeat w m (h.2 p))
  · exact ((PortWork.refl p s).replayBeat).fits h (transfersAt_replayBeat (h.2 p))
  · exact ((PortWork.refl p s).heldOffer).fits h ((Alike.refl p s).heldOffer.transfersAt (h.2 p))
  · exact fits_tickSteps h
  · exact (quiet_riseAtInterval s).fits h
  · exact ((PortWork.refl p s).declareIdle).fits h (transfersAt_declareIdle (h.2 p))
  · obtain ⟨hfit, hn⟩ := processed_fits h hs hf hv
    exact fits_afterCompletion hfit hn
  · exact fits_initStep h hf hw
  · exact fits_arbitrate h
  · exact fits_enterSleep h hc hd
  · exact fits_deferredReset h (liveOf_none hf)
  · exact (fits_abortExecuted h (liveOf_none hf)).1
  · exact ((PortWork.refl p s).closeTest).fits h (transfersAt_closeTest (h.2 p))

/-- Sound ports, a sound controller, and words in order: each step needs all three. -/
def Working (s : State) : Prop := PortsSound s ∧ ControllerSound s ∧ Fits s

theorem step_keeps_working {s t : State} (h : Working s) (hst : step s = .next t) : Working t := by
  refine ⟨step_keeps_portsSound h.1 hst, stepKeepsControllerSound s t h.2.1 hst, ?_⟩
  suffices whole : Working t from whole.2.2
  refine step_keeps (I := Working) (fun s l k => k) (fun s _ k => k) (fun s cause k => ?_) (fun s cause k => ?_)
    (fun s _ k => ?_) (fun s u _ k hu => ?_) h hst
  · exact ⟨(Carries.beginReset cause s).ports k.1, controllerSound_hardReset cause s, fits_hardReset cause s⟩
  · exact ⟨(Carries.hardReset cause s).ports k.1, controllerSound_hardReset cause s, fits_hardReset cause s⟩
  · obtain ⟨l, n, e⟩ := refclkPeriod_eq s
    exact e ▸ k
  · exact ⟨(Carries.event hu).ports k.1, event_controllerSound k.2.1 hu, event_fits k.2.2 k.1 k.2.1 hu⟩

/-- Settles O57: the first half from what every operation carries, the second event by event, each port's words followed
from one operation to the next. -/
theorem stepKeepsPortsSound : Obligations.StepKeepsPortsSound := by
  refine ⟨fun s t => step_keeps_portsSound, fun s t hp hc hcfg ht hst => ?_⟩
  obtain ⟨-, -, cfg, words⟩ := step_keeps_working ⟨hp, hc, hcfg, (transfersSound_iff s).1 ht⟩ hst
  exact ⟨cfg, (transfersSound_iff t).2 words⟩

end Sys2Proof.Proofs

/-! PROOFS. The machine as a whole: the queue of commands and the end of an instant (R56, R62, R142, R174), what settling
changes (R91, R92, R109), and posting (R146, R147). -/

namespace Sys2Proof.Proofs

open Sys2Proof.Machine Sys2Proof.Safety Sys2Proof.Laws

/-! ### One step -/

/-- Settles O1. -/
theorem stepRunsTheFrontCommand : Obligations.StepRunsTheFrontCommand := fun _ _ _ => step_cons

theorem sleepDue_iff (s : State) : sleepDue s = true ↔
    s.mc.sleepRequest = true ∧ (s.mc.state = .ready ∧ s.mc.flight = none) ∧ s.mc.owed = 0 := by
  simp only [sleepDue, Bool.and_eq_true, beq_iff_eq, Option.isNone_iff_eq_none, and_assoc]

/-- R62: an arbitration point falls due in a free READY that does not go to SLEEP, with a gated request. -/
theorem pointDue_iff (s : State) : pointDue s = true ↔
    (s.mc.state = .ready ∧ s.mc.flight = none) ∧ sleepDue s = false ∧ candidates (settlePorts s) ≠ [] := by
  simp only [pointDue, pointHeld, Bool.and_eq_true, beq_iff_eq, Option.isNone_iff_eq_none, Bool.not_eq_true',
    List.isEmpty_eq_false_iff, and_assoc, ne_eq]

theorem refclkPeriod_early {s : State} (h : s.held = none) (hd : s.tb.divider + 1 < s.sc.cfg.divisor) :
    refclkPeriod s = { s with tb := { s.tb with divider := s.tb.divider + 1 } } := by
  unfold refclkPeriod
  rw [if_neg (by simp [h]), if_neg (not_le.2 hd)]
  rfl

theorem refclkPeriod_full {s : State} (h : s.held = none) (hq : s.pending = []) (hd : s.sc.cfg.divisor ≤ s.tb.divider + 1) :
    refclkPeriod s = { s with tb := { s.tb with divider := 0 }, pending := [.tick] } := by
  unfold refclkPeriod
  rw [if_neg (by simp [h]), if_pos hd, hq]
  rfl

/-- Settles O3: an empty queue by what is due, in the order of R142. -/
theorem emptyQueueEndsTheInstantOrPassesTime : Obligations.EmptyQueueEndsTheInstantOrPassesTime := by
  intro s hq free sleeps point
  have quiet (hs : ¬ sleeps) : sleepDue s = false := Bool.eq_false_iff.2 (mt (sleepDue_iff s).1 hs)
  have still (hs : ¬ sleeps) (hp : ¬ point) : pointDue s = false :=
    Bool.eq_false_iff.2 fun e => hp ⟨((pointDue_iff s).1 e).1, ((pointDue_iff s).1 e).2.2⟩
  rw [step_nil hq]
  refine ⟨fun held => ?_, fun running hs => ?_, fun running hs hp => ?_, fun running hs hp early => ?_,
    fun running hs hp full => ?_⟩
  · simp [onEmptyQueue, held]
  · exact (onEmptyQueue_sleep running ((sleepDue_iff s).2 hs)).symm
  · exact (onEmptyQueue_point running (quiet hs) ((pointDue_iff s).2 ⟨hp.1, quiet hs, hp.2⟩)).symm
  · rw [onEmptyQueue_period running (quiet hs) (still hs hp)]
    exact congrArg _ (refclkPeriod_early running early)
  · rw [onEmptyQueue_period running (quiet hs) (still hs hp)]
    exact congrArg _ (refclkPeriod_full running hq full)

/-! ### Settling -/

/-- Settles O4. -/
theorem settlingChangesRequestsStopBlocksAndPinsOnly : Obligations.SettlingChangesRequestsStopBlocksAndPinsOnly := by
  intro s p
  refine ⟨rfl, ?_, ?_⟩
  · rw [settle_port, settlePort_eq]
  · rw [settle_port, settlePort_eq]
    exact releaseStop_stopBlock _

/-! ### Posting -/

/-- Settles O6: a record within the range of its count is stored whole, or refused by a full queue. -/
theorem postingStoresOrRefuses : Obligations.PostingStoresOrRefuses := by
  intro r s hr
  have posted : post r s = { s with eu := postEu s.tb.tickCount s.eu r } := rfl
  rw [posted]
  refine ⟨fun room => ?_, fun full => ?_⟩
  · unfold postEu
    rw [if_pos (Nat.lt_succ_of_le room), storeRecord_of_count_le hr]
  · unfold postEu
    rw [if_neg (not_lt.2 full)]
    rfl

end Sys2Proof.Proofs

/-! PROOFS. The command reference (Chapter 9): commands turned away, DOZE, WAKE and the sleep test, and the commands that open,
close and abort a port. -/

namespace Sys2Proof.Proofs

open Sys2Proof.Machine Sys2Proof.Safety Sys2Proof.Laws

/-! ### Rows that write a register -/

/-- Every row that writes a register is a host write to its position (log entries 11 to 13). -/
theorem exec_of_hostWriteOf {c : Instr} {off : BitVec 6} {w : Word} (h : hostWriteOf c = some (off, w)) (s : State) :
    exec c s = hostWrite off w s := by
  cases c with
  | registerWrite rd wr o x =>
    cases rd <;> cases wr <;> cases h
    rfl
  | nop | arm | disarm | doze | wake | portOpen | portClose | portAbort | segPost | segFlush | queueStatus | markRead
  | memFill | regionCrc | undefinedCommand | overlap | softReset | cmdCancel | xenSet | xenClr | evqThreshWrite
  | winAddrLoWrite | winAddrHiWrite | winDataWrite | cfgDataWrite | start =>
    cases h
    rfl
  | _ => cases h

/-- R9: a CMD write that finds the sequencer BUSY. -/
theorem hostWrite_overlap {s : State} (h : Listening s) (hb : ¬ SequencerIdle s) (w : Word) :
    hostWrite 0x05 w s = .next (settle { s with hp := { s.hp with seq := { s.hp.seq with overlap := true } } }) := by
  have busy : s.hp.seq.running.isSome = true := Option.isSome_iff_ne_none.2 hb
  have overlaps : writeCmd w s = { s with hp := { s.hp with seq := { s.hp.seq with overlap := true } } } := if_pos busy
  rw [hostWrite_listening h, ← overlaps]
  rfl

/-- Settles O10: the code check, the checks of R8, R20 and R124, and R9's OVERLAP. -/
theorem commandsTurnedAway : Obligations.CommandsTurnedAway := by
  refine ⟨fun w s takes unknown => ?_, fun c code high r s hc takes hr => ?_, fun w s => hostWrite_overlap (w := w),
    fun c w s hc listens hb => ?_, fun c off w s hc => ?_⟩
  · have free : ¬ s.hp.seq.running.isSome = true := by simp [takes.2]
    have begins : writeRegister 0x05 w s = runLatched (latchCommand w s) := if_neg free
    have ends : runLatched (latchCommand w s) = ended .badCode {} (latchCommand w s) := by
      have none : cmdOf (latchCommand w s).hp.seq.latched.code = none := cmdOf_of_not_mem unknown
      unfold runLatched
      dsimp only
      rw [none]
      rfl
    have runs : exec (.undefinedCommand w) s = hostWrite 0x05 w s := rfl
    rw [runs, hostWrite_listening takes.1, begins, ends, latchCommand_eq_started]
  · obtain ⟨runs, cmd, hcmd⟩ := exec_cmdRow hc s
    rw [runs, hostWrite_command takes, runLatched_started hcmd, hr]
  · rw [exec_of_hostWriteOf hc]
    exact hostWrite_overlap listens hb w
  · rw [exec_of_hostWriteOf hc]
    rfl

/-! ### DOZE, the sleep test, WAKE (R56, R57, R160, R161) -/

/-- With nothing in flight the window loses a PENDING prefetch silently and a PENDING write with NOT_READY (R13, R16). -/
theorem dropWindow_of_free {s : State} (h : s.mc.flight = none) : dropWindow s = { s with hp := { s.hp with win :=
    { s.hp.win with
      latch := if s.hp.win.latch = .pending then .empty else s.hp.win.latch
      wbuf := none
      errors := if s.hp.win.wbuf = none then s.hp.win.errors else s.hp.win.errors ||| 0x20 } } } := by
  have noRead : prefetchGranted s = false := by simp [prefetchGranted, h]
  have noWrite (t : State) (ht : t.mc = s.mc) : writeGranted t = false := by simp [writeGranted, ht, h]
  have dropped (t : State) (ht : t.mc = s.mc) : (if t.hp.win.wbuf.isSome ∧ writeGranted t = false then
      setWinError winNotReady (t.updWin fun w => { w with wbuf := none }) else t) =
      { t with hp := { t.hp with win := { t.hp.win with
        wbuf := none
        errors := if t.hp.win.wbuf = none then t.hp.win.errors else t.hp.win.errors ||| 0x20 } } } := by
    cases hb : t.hp.win.wbuf with
    | none =>
      rw [if_neg (by simp), if_pos rfl, ← hb]
    | some b =>
      rw [if_pos ⟨rfl, noWrite t ht⟩, if_neg nofun]
      rfl
  have latched : (if s.hp.win.latch = .pending ∧ prefetchGranted s = false then
      s.updWin fun w => { w with latch := .empty } else s) = { s with hp := { s.hp with win := { s.hp.win with
        latch := if s.hp.win.latch = .pending then .empty else s.hp.win.latch } } } := by
    by_cases hl : s.hp.win.latch = .pending
    · rw [if_pos ⟨hl, noRead⟩, if_pos hl]
      rfl
    · rw [if_neg fun e => hl e.1, if_neg hl]
  rw [dropWindow]
  dsimp only
  rw [latched]
  exact dropped _ rfl

/-- Settles O13. -/
theorem dozeSleepAndWake : Obligations.DozeSleepAndWake := by
  refine ⟨fun high s h => ?_, fun s running request ready free paid => ?_, fun s running idle => ?_, fun high s h => ?_⟩
  · have effect : exec (.doze high) s = .next (settle (cmdDoze (started 0x12 (portField high) s))) :=
      command_effect (c := .doze) rfl h
    have test : (allClosed (started 0x12 (portField high) s) &&
        (started 0x12 (portField high) s).hp.win.wbuf.isNone) = true ↔ AllClosed s ∧ s.hp.win.wbuf = none := by
      rw [Bool.and_eq_true, allClosed_iff, Option.isNone_iff_eq_none]
      rfl
    rw [effect]
    refine ⟨fun passes => ?_, fun fails => ?_⟩
    · unfold cmdDoze
      rw [if_pos (test.2 passes)]
      rfl
    · unfold cmdDoze
      rw [if_neg (mt test.1 fails)]
      rfl
  · have due : sleepDue s = true := (sleepDue_iff s).2 ⟨request, ⟨ready, free⟩, paid⟩
    have sleeps : exec .sleepEntry s = .next (settle (enterSleep s)) :=
      (event_running running _).trans (by rw [if_pos due])
    have dropped := dropWindow_of_free (s := s.updMc fun m => { m with state := .sleep, sleepRequest := false }) free
    rw [sleeps, enterSleep, dropped]
    rfl
  · have notDue : ¬ sleepDue s = true := fun e => by
      obtain ⟨h1, ⟨h2, h3⟩, h4⟩ := (sleepDue_iff s).1 e
      exact idle ⟨h1, h2, h3, h4⟩
    exact (event_running running _).trans (by rw [if_neg notDue])
  · exact command_effect (c := .wake) rfl h

/-! ### Opening, closing and aborting a port (R125, R126, R131, R133, R134, R136) -/

/-- Settles O14. -/
theorem portOpenMakesAFreshIdlePort : Obligations.PortOpenMakesAFreshIdlePort := fun _ _ h =>
  command_effect (c := .portOpen) rfl h

theorem postAll_withPort (rs : List Report) (p : PortId) (x : Port) (s : State) :
    postAll rs (withPort p x s) = withPort p x (postAll rs s) := by
  induction rs generalizing s with
  | nil => rfl
  | cons r rs ih => exact ih (post r s)

/-- Of a port that enters CLOSED only its mark log and counters matter. -/
theorem shut_withPort {p : PortId} {x : Port} {s : State} (h : x.closed = (s.port p).closed) (d : Detail) (n : Nat) :
    shut p d n (withPort p x s) = shut p d n s := by
  have kept : (withPort p x s).port p = x := withPort_port_self p x s
  have same : shut p d n (withPort p x s) =
      { post ⟨.portClosed, .port p, 0, d, n⟩ (withPort p x s) with
        ports := (s.ports.set p x).set p x.closed
        ma := { s.ma with ports := s.ma.ports.set p .opened } } := by
    unfold shut
    rw [kept]
    rfl
  rw [same, h, Quad.set_set]
  rfl

/-- An IDLE or ACTIVE port is closed within the write, or left CLOSING (R126, R131). -/
theorem cmdPortClose_of_working {p : PortId} {s : State} (h : (s.port p).state ≠ .faulted) : cmdPortClose p s =
    finish .ok { w0 := pack [(0, ((closeNow p (withPort p (s.port p).enterClosing s)).port p).state.code)] }
      (closeNow p (withPort p (s.port p).enterClosing s)) := by
  unfold cmdPortClose
  rw [if_neg h]
  rfl

/-- A PORT_CLOSE that closes the port returns CLOSED's code, 0. -/
theorem finish_closed {p : PortId} {d : Detail} {n : Nat} {s t : State} (h : t = shut p d n s) :
    finish .ok { w0 := pack [(0, (t.port p).state.code)] } t = ended .ok {} (shut p d n s) := by
  have code : pack [(0, PState.closed.code)] = 0 := by decide
  rw [h, shut_port_self, show (s.port p).closed.state = .closed from rfl, code]
  rfl

/-- Settles O15: the end of the drain, the abandonment, or the drain's start. -/
theorem portCloseDrainsOrEnds : Obligations.PortCloseDrainsOrEnds := by
  intro high s p x k st drained silent h working
  have effect : exec (.portClose high) s = .next (settle (cmdPortClose p st)) := command_effect (c := .portClose) rfl h
  have closing : (withPort p x.enterClosing st).port p = x.enterClosing := withPort_port_self _ _ _
  have atEnd : drainEnded (withPort p x.enterClosing st) p = true ↔ drained := by
    rw [drainEnded_iff, closing]
    rfl
  have declared : ((withPort p x.enterClosing st).pcfg p).dir = .replay ∧
      ((withPort p x.enterClosing st).port p).idleDeclared = true ↔ silent := by
    rw [closing]
    rfl
  have forget (rs : List Report) (d : Detail) (n : Nat) :
      shut p d n (postAll rs (withPort p x.enterClosing st)) = shut p d n (postAll rs st) := by
    rw [postAll_withPort]
    exact shut_withPort (by rw [postAll_port]; rfl) d n
  rw [effect, cmdPortClose_of_working (s := st) working]
  refine ⟨fun ends => ?_, fun waits idle => ?_, fun waits busyLink => ?_⟩
  · have closed : closeNow p (withPort p x.enterClosing st) =
        shut p .close x.fifo.length (postAll (outcomes p .segShort .close .close x.queue) st) := by
      unfold closeNow
      rw [if_pos (atEnd.2 ends), closeEnd_eq, closing]
      exact forget _ _ _
    exact congrArg (fun t => Host.Outcome.next (settle t)) (finish_closed closed)
  · have closed : closeNow p (withPort p x.enterClosing st) = shut p .closeIdle x.fifo.length
        (orphanFlight p (postAll (outcomes p .segShort .closeIdle .close x.queue) st)) := by
      unfold closeNow
      rw [if_neg (mt atEnd.1 waits), if_pos (declared.2 idle), abandon_eq, closing]
      have same := shut_withPort (p := p) (x := x.enterClosing)
        (s := orphanFlight p (postAll (outcomes p .segShort .closeIdle .close x.queue) st))
        (by rw [orphanFlight_port, postAll_port]; rfl) .closeIdle x.fifo.length
      rw [postAll_withPort]
      exact same
    exact congrArg (fun t => Host.Outcome.next (settle t)) (finish_closed closed)
  · have stays : closeNow p (withPort p x.enterClosing st) = withPort p x.enterClosing st := by
      unfold closeNow
      rw [if_neg (mt atEnd.1 waits), if_neg (mt declared.1 busyLink)]
    have shown : pack [(0, PState.closing.code)] = 3 := by decide
    have state : x.enterClosing.state = .closing := rfl
    rw [show st.port p = x from rfl, stays, closing, state, shown]
    rfl

/-- A port that is FAULTED closes with count 0 (R136). -/
theorem cmdPortClose_of_faulted {p : PortId} {s : State} (h : (s.port p).state = .faulted) :
    cmdPortClose p s = ended .ok {} (shut p .close 0 s) := by
  unfold cmdPortClose
  rw [if_pos h]
  exact finish_closed (enterClosed_eq_shut _ _ _ _)

theorem liveFlight_iff (s : State) (p : PortId) :
    liveFlight s p = true ↔ ∃ f, s.mc.flight = some f ∧ f.who = .port p ∧ f.orphan = false := by
  unfold liveFlight
  cases s.mc.flight <;> simp

/-- Settles O16. -/
theorem portAbortAndFaultAcknowledgement : Obligations.PortAbortAndFaultAcknowledgement := by
  intro high s p x
  have abort (h : Admitted s 0x22 p) : exec (.portAbort high) s = .next (settle (cmdPortAbort p (started 0x22 p s))) :=
    command_effect (c := .portAbort) rfl h
  have atOnce (hl : liveFlight s p = false) :
      cmdPortAbort p (started 0x22 p s) = ended .ok {} (abortPort p (started 0x22 p s)) :=
    if_neg (Bool.eq_false_iff.1 hl)
  refine ⟨liveFlight_iff s p, fun h working hl => ?_, fun h hl => ?_, fun h faulted hl => ?_, fun h faulted => ?_⟩
  · obtain ⟨-, -, admitted⟩ := port_of_refusal_none h.2 (states := [.idle, .active, .closing, .faulted]) rfl
    have opened : x.state ≠ .closed := fun e => by
      have : PState.closed ∈ [PState.idle, .active, .closing, .faulted] := e ▸ admitted
      simp at this
    rw [abort h, atOnce hl, abortPort_open (s := started 0x22 p s) opened working]
    rfl
  · rw [abort h, cmdPortAbort, if_pos (by exact hl)]
    rfl
  · rw [abort h, atOnce hl, abortPort_faulted (s := started 0x22 p s) faulted]
  · have close : exec (.portClose high) s = .next (settle (cmdPortClose p (started 0x21 p s))) :=
      command_effect (c := .portClose) rfl h
    rw [close, cmdPortClose_of_faulted (s := started 0x21 p s) faulted]

end Sys2Proof.Proofs

/-! PROOFS. The command reference (Chapter 9): SEG_POST, SEG_FLUSH, QUEUE_STATUS, MARK_READ, and the memory commands with
CMD_CANCEL. -/

namespace Sys2Proof.Proofs

open Sys2Proof.Machine Sys2Proof.Safety Sys2Proof.Laws

/-! ### SEG_POST (R99, R166) -/

/-- The format check in the words of R166. -/
theorem segFormatOk_iff (dir : Dir) (a : Args) : segFormatOk dir a = true ↔
    segPostZeros a = true ∧ (segPostDesc a).length ≠ 0 ∧
      (∀ g, (segPostDesc a).guard = some g → g < (segPostDesc a).length) ∧
      (∀ r, (segPostDesc a).rpt = some r → dir = .replay ∧ r ≠ 0) := by
  have guards : (segPostDesc a).guard.all (fun g => decide (g < (segPostDesc a).length)) = true ↔
      ∀ g, (segPostDesc a).guard = some g → g < (segPostDesc a).length := by
    cases (segPostDesc a).guard <;> simp
  have repeats : ((segPostDesc a).rpt.isNone || dir == .replay) = true ∧
      (segPostDesc a).rpt.all (fun n => n != 0) = true ↔ ∀ r, (segPostDesc a).rpt = some r → dir = .replay ∧ r ≠ 0 := by
    cases (segPostDesc a).rpt <;> simp
  simp only [segFormatOk, Bool.and_eq_true, bne_iff_ne, guards]
  rw [and_assoc, repeats]
  simp only [and_assoc, ne_eq]

/-- Settles O18: the three tests in order, and the post. -/
theorem segPostAppendsOrIsRefused : Obligations.SegPostAppendsOrIsRefused := by
  intro high s p x k st d format range h
  have effect : exec (.segPost high) s = .next (settle (cmdSegPost p st)) := command_effect (c := .segPost) rfl h
  have formatOk : segFormatOk k.dir s.hp.seq.args = true ↔ format := segFormatOk_iff _ _
  have fits (hf : format) : ¬ segFormatOk k.dir s.hp.seq.args = false := by simp [formatOk.2 hf]
  have inside (hr : range) : ¬ k.regionWords < d.start + d.length := not_lt.2 hr
  rw [effect]
  refine ⟨fun hf => ?_, fun hf hr => ?_, fun hf hr full => ?_, fun hf hr room => ?_⟩
  · have refused : cmdSegPost p st = ended .segFormat {} st := if_pos (Bool.eq_false_iff.2 (mt formatOk.1 hf))
    rw [refused]
  · have refused : cmdSegPost p st = ended .segRange {} st := (if_neg (fits hf)).trans (if_pos (not_le.1 hr))
    rw [refused]
  · have refused : cmdSegPost p st = ended .queueFull {} st :=
      ((if_neg (fits hf)).trans (if_neg (inside hr))).trans (if_pos full)
    rw [refused]
  · have posted : cmdSegPost p st = ended .ok { w0 := BitVec.ofNat 16 (x.queue.length + 1) }
        (withPort p (x.append k.dir d).activate st) :=
      ((if_neg (fits hf)).trans (if_neg (inside hr))).trans (if_neg (not_le.2 room))
    obtain ⟨-, -, admitted⟩ := port_of_refusal_none h.2 (states := [.idle, .active]) rfl
    have appended : (x.append k.dir d).activate = { x with
        state := .active
        idleCount := if x.state = .idle then 0 else x.idleCount
        queue := x.queue ++ [{ desc := d, progress := 0, started := false }]
        fetch := if k.dir = .replay ∧ x.fetch = none then some { pos := x.queue.length, rep := 1, off := 0 }
          else x.fetch } := by
      have same : (x.append k.dir d).state = x.state := rfl
      rcases (by simpa using admitted : x.state = .idle ∨ x.state = .active) with e | e
      · unfold Port.activate
        rw [if_pos (same.trans e), if_pos e]
        rfl
      · unfold Port.activate
        rw [if_neg (by simp [same, e]), if_neg (by simp [e]), ← e]
        rfl
    rw [posted, appended]

/-! ### SEG_FLUSH (R122) -/

/-- The cursor of a replay port after a flush: at tail, or where it stands. -/
theorem flushedFetch_replay (x : Port) :
    (x.fetch = none → x.flushedFetch .replay = none) ∧
    ∀ c, x.fetch = some c → (x.queue[c.pos]? = none → x.flushedFetch .replay = some c) ∧
      ∀ e, x.queue[c.pos]? = some e → x.flushedFetch .replay = if e.started then some c else none := by
  refine ⟨fun hf => ?_, fun c hf => ⟨fun hq => ?_, fun e hq => ?_⟩⟩
  · simp [Port.flushedFetch, Port.fetched, hf]
  · simp [Port.flushedFetch, Port.fetched, hf, hq]
  · simp [Port.flushedFetch, Port.fetched, hf, hq]

theorem cmdSegFlush_eq (p : PortId) (s : State) : cmdSegFlush p s =
    ended .ok { w0 := BitVec.ofNat 16 (flushSplit (s.pcfg p).dir (s.port p).queue).2.length }
      (withPort p (Port.flushed (s.pcfg p).dir (s.port p)) (postAll ((flushSplit (s.pcfg p).dir (s.port p).queue).2.map
        fun e => ⟨.segCancelled, .port p, e.desc.tag, .flush, 0⟩) s)) := by
  unfold cmdSegFlush
  dsimp only
  rw [cancelAll_eq_postAll, updPort_eq_withPort, postAll_port]
  rfl

/-- Settles O19: what each direction keeps, and the port that is left. -/
theorem segFlushCancelsWhatHasNotStarted : Obligations.SegFlushCancelsWhatHasNotStarted := by
  intro high s p x st cancelled h
  have effect : exec (.segFlush high) s = .next (settle (cmdSegFlush p st)) := command_effect (c := .segFlush) rfl h
  have cfg : st.pcfg p = s.pcfg p := rfl
  have port : st.port p = x := rfl
  rw [effect, cmdSegFlush_eq, cfg, port]
  refine ⟨fun hd busy => ?_, fun hd => ?_⟩
  · have stays : Port.flushed .capture x = { x with queue := x.queue.take 1 } := by
      refine if_neg fun e => ?_
      obtain ⟨active, empty⟩ := e
      have : x.queue.take 1 = [] := empty
      exact busy active (by simpa using this)
    rw [hd, stays]
    have count : (flushSplit .capture x.queue).2.length = x.queue.length - 1 := List.length_drop
    rw [count]
    rfl
  · intro kept gone y
    have flushed : Port.flushed .replay x = if x.state = .active ∧ kept = [] then
        { y with state := .idle, idleCount := 0, idleDeclared := false, underrun := false } else y := by
      have cursor : x.flushedFetch .replay = y.fetch := by
        obtain ⟨atTail, onEntry⟩ := flushedFetch_replay x
        show _ = (match x.fetch with
          | some c => (match x.queue[c.pos]? with
            | some e => if e.started then some c else none
            | none => some c)
          | none => none)
        cases hf : x.fetch with
        | none => exact atTail hf
        | some c =>
          obtain ⟨beyond, within⟩ := onEntry c hf
          dsimp only
          cases hq : x.queue[c.pos]? with
          | none => exact beyond hq
          | some e => exact within e hq
      unfold Port.flushed
      rw [cursor]
      rfl
    rw [hd, flushed]
    rfl

/-! ### QUEUE_STATUS (Table 9-3) -/

theorem status_fields {code length : Nat} (hc : code < 8) (hl : length < 16) (a b c : Bool) :
    let w := pack [(0, code), (3, length), (7, a.toNat), (8, b.toNat), (9, c.toNat)]
    bits w 0 3 = code ∧ bits w 3 4 = length ∧ flag w 7 = a ∧ flag w 8 = b ∧ flag w 9 = c ∧ bits w 10 6 = 0 := by
  have ha := Bool.toNat_lt a
  have hb := Bool.toNat_lt b
  have hcc := Bool.toNat_lt c
  refine ⟨bits_pack [] _ 0 3 code (by decide) hc (by simp) (by simp),
    bits_pack [(0, code)] _ 3 4 length (by decide) hl ?_ (by simp),
    flag_pack_bool [(0, code), (3, length)] _ 7 a (by decide) ?_ (by simp),
    flag_pack_bool [(0, code), (3, length), (7, a.toNat)] _ 8 b (by decide) ?_ (by simp),
    flag_pack_bool [(0, code), (3, length), (7, a.toNat), (8, b.toNat)] [] 9 c (by decide) ?_ (by simp),
    bits_pack_zero _ 10 6 (by decide) ?_⟩ <;>
  · simp only [List.forall_mem_cons, List.not_mem_nil, false_imp_iff, implies_true, and_true]
    omega

theorem tag_fields {a b : Nat} (ha : a < 256) (hb : b < 256) :
    bits (pack [(0, a), (8, b)]) 0 8 = a ∧ bits (pack [(0, a), (8, b)]) 8 8 = b := by
  refine ⟨bits_pack [] _ 0 8 a (by decide) ha (by simp) (by simp), bits_pack [(0, a)] [] 8 8 b (by decide) hb ?_ (by simp)⟩
  simp only [List.forall_mem_cons, List.not_mem_nil, false_imp_iff, implies_true, and_true]
  omega

/-- The tag QUEUE_STATUS shows of the fetch cursor's descriptor, if it is on one. -/
def shownFetch (dir : Dir) (x : Port) : Option Byte :=
  if dir = .capture then x.queue.head?.map fun h => h.desc.tag else x.fetched.map fun ce => ce.2.desc.tag

theorem headTag_eq (x : Port) : x.headTag = (x.queue.head?.map fun h => h.desc.tag).getD 0 := by
  unfold Port.headTag
  cases x.queue <;> rfl

theorem queueReport_open {dir : Dir} {x : Port} (h : ¬ (x.state = .closed ∨ x.state = .faulted)) : queueReport dir x =
    { w0 := pack [(0, x.state.code), (3, x.queue.length), (7, x.xen.toNat),
        (8, (dir == .replay && x.stopBlock != .clear).toNat), (9, (shownFetch dir x).isSome.toNat)]
      w1 := pack [(0, x.headTag.toNat), (8, ((shownFetch dir x).map BitVec.toNat).getD 0)]
      w2 := lowWord ((x.queue.head?.map QEntry.progress).getD 0)
      w3 := highWord ((x.queue.head?.map QEntry.progress).getD 0) } := by
  unfold queueReport
  rw [if_neg h]
  cases dir
  · unfold shownFetch
    simp only [if_true]
    cases x.queue <;> rfl
  · unfold shownFetch
    simp only [reduceCtorEq, if_false]
    cases x.fetched <;> cases x.queue <;> rfl

theorem stateCode_lt (x : PState) : x.code < 8 := by cases x <;> decide

/-- Settles O20: Table 9-3 field by field. -/
theorem queueStatusReports : Obligations.QueueStatusReports := by
  intro high s p x open' h hl
  have effect : exec (.queueStatus high) s = .next (settle (ended .ok (queueReport (s.pcfg p).dir x) (started 0x32 p s))) :=
    command_effect (c := .queueStatus) rfl h
  have isOpen : open' → ¬ (x.state = .closed ∨ x.state = .faulted) := by
    rintro (e | e | e) <;> simp [e]
  have fields := status_fields (stateCode_lt x.state) (Nat.lt_succ_of_le (hl.trans (by decide))) x.xen
    ((s.pcfg p).dir == .replay && x.stopBlock != .clear) (shownFetch (s.pcfg p).dir x).isSome
  have tag : ((shownFetch (s.pcfg p).dir x).map BitVec.toNat).getD 0 < 256 := by
    cases shownFetch (s.pcfg p).dir x with
    | none => decide
    | some t => exact t.isLt
  obtain ⟨head, current⟩ := tag_fields x.headTag.isLt tag
  refine ⟨_, effect, fun shut => ?_, fun opened => ?_, fun opened hd => ?_, fun opened hd => ?_⟩
  · have closed : x.state = .closed ∨ x.state = .faulted := by
      cases hx : x.state <;> simp_all [open']
    unfold queueReport
    rw [if_pos closed]
    simp [pack]
  · obtain ⟨code, depth, xen, -, -, rest⟩ := fields
    rw [queueReport_open (isOpen opened)]
    refine ⟨code, depth, xen, rest, head.trans ?_, ?_, ?_⟩
    · rw [headTag_eq]
      cases x.queue <;> rfl
    all_goals cases x.queue <;> rfl
  · obtain ⟨-, -, -, stop, fetch, -⟩ := fields
    rw [queueReport_open (isOpen opened)]
    have shows : shownFetch (s.pcfg p).dir x = x.queue.head?.map fun h => h.desc.tag := if_pos hd
    refine ⟨stop.trans (by rw [hd]; rfl), fetch.trans ?_, current.trans (Eq.trans ?_ head.symm)⟩
    · rw [shows]
      cases x.queue <;> rfl
    · rw [shows, headTag_eq]
      cases x.queue <;> rfl
  · obtain ⟨-, -, -, stop, fetch, -⟩ := fields
    rw [queueReport_open (isOpen opened)]
    have shows : shownFetch (s.pcfg p).dir x = x.fetched.map fun ce => ce.2.desc.tag := if_neg (by simp [hd])
    refine ⟨stop.trans (by rw [hd]; rfl), fun c e hc he => ?_, fun hc => ?_⟩
    · have fetched : x.fetched = some (c, e) := by simp [Port.fetched, hc, he]
      exact ⟨fetch.trans (by rw [shows, fetched]; rfl), current.trans (by rw [shows, fetched]; rfl)⟩
    · have fetched : x.fetched = none := by simp [Port.fetched, hc]
      exact ⟨fetch.trans (by rw [shows, fetched]; rfl), current.trans (by rw [shows, fetched]; rfl)⟩

/-! ### MARK_READ (R138, R169) -/

/-- The report of a mark entry whose numbers are within their fields. -/
theorem markReport_eq {m : MarkEntry} {n : Nat} (hi : m.index < 4194304) (ha : m.addr < 4194304) : markReport m n =
    { w0 := BitVec.ofNat 16 (m.tag.toNat + 256 * n)
      w1 := BitVec.ofNat 16 m.index
      w2 := BitVec.ofNat 16 m.addr
      w3 := BitVec.ofNat 16 (m.index / 65536 + 256 * (m.addr / 65536)) } := by
  have index : m.index / 65536 % 64 = m.index / 65536 := Nat.mod_eq_of_lt (by omega)
  have addr : m.addr / 65536 % 64 = m.addr / 65536 := Nat.mod_eq_of_lt (by omega)
  unfold markReport
  rw [pack_two _ _ 8 m.tag.isLt, index, addr, pack_two _ _ 8 (by omega), Nat.mul_comm n, Nat.mul_comm (m.addr / 65536)]
  rfl

/-- Settles O21. -/
theorem markReadReturnsTheOldest : Obligations.MarkReadReturnsTheOldest := by
  intro high s p x st h
  have effect : exec (.markRead high) s = .next (settle (cmdMarkRead p st)) := command_effect (c := .markRead) rfl h
  have capture (hd : (s.pcfg p).dir = .capture) : ¬ (st.pcfg p).dir = .replay := by
    show ¬ (s.pcfg p).dir = .replay
    simp [hd]
  rw [effect]
  refine ⟨fun hd => ?_, fun hd hm => ?_, fun m rest hd hm hi ha ho => ?_⟩
  · have refused : cmdMarkRead p st = ended .badState {} st := if_pos hd
    rw [refused]
  · have marks : (st.port p).marks = [] := hm
    unfold cmdMarkRead
    rw [if_neg (capture hd), marks]
    rfl
  · have marks : (st.port p).marks = m :: rest := hm
    rw [← markReport_eq hi ha, cmdMarkRead, if_neg (capture hd), marks]
    rfl

/-! ### Memory commands (R170) -/

theorem splitNumber_seven (lo hi : Word) : splitNumber lo hi 7 = lo.toNat + 65536 * (hi.toNat % 128) := by
  have low : bits hi 0 7 = hi.toNat % 128 := bits_low hi 7
  rw [splitNumber, low, Nat.mul_comm]

theorem memArgOk_iff (size : Nat) (a : Args) : memArgOk size a = true ↔
    a.a2.toNat < 64 ∧ a.a4.toNat < 128 ∧ memArgCount a ≠ 0 ∧ memArgStart a + memArgCount a ≤ size := by
  have above5 : bits a.a2 6 10 = 0 ↔ a.a2.toNat < 64 := bits_top_eq_zero _ 6 10 rfl
  have above6 : bits a.a4 7 9 = 0 ↔ a.a4.toNat < 128 := bits_top_eq_zero _ 7 9 rfl
  simp only [memArgOk, memArgZeros, Bool.and_eq_true, beq_iff_eq, bne_iff_ne, decide_eq_true_eq, above5, above6, and_assoc,
    ne_eq]

theorem protectedRange_iff (s : State) (start count : Nat) : protectedRange s start count = true ↔
    ∃ p : PortId, (s.pcfg p).dir = .capture ∧ (s.port p).state ≠ .closed ∧
      start < (s.pcfg p).regionEnd ∧ (s.pcfg p).regionFirst < start + count := by
  simp only [protectedRange, List.any_eq_true, mem_allPorts, true_and, Bool.and_eq_true, beq_iff_eq, bne_iff_ne,
    decide_eq_true_eq, and_assoc, ne_eq]

/-- Settles O22: the two tests in order, and the command that then runs. -/
theorem memoryCommandsAcceptedOrRefused : Obligations.MemoryCommandsAcceptedOrRefused := by
  intro high s a start count legal meets
  have hstart : memArgStart a = start := splitNumber_six a.a1 a.a2
  have hcount : memArgCount a = count := splitNumber_seven a.a3 a.a4
  have ok : memArgOk s.sc.cfg.memorySize a = true ↔ legal := by
    rw [memArgOk_iff, hstart, hcount]
  have bad (h : ¬ legal) : memArgOk s.sc.cfg.memorySize a = false := Bool.eq_false_iff.2 (mt ok.1 h)
  have good (h : legal) : ¬ memArgOk s.sc.cfg.memorySize a = false := by simp [ok.2 h]
  have guarded : protectedRange s (memArgStart a) (memArgCount a) = true ↔ meets := by
    rw [protectedRange_iff, hstart, hcount]
  refine ⟨fun h => ?_, fun h => ?_⟩
  · intro st
    have effect : exec (.memFill high) s = .next (settle (cmdMemFill st)) := command_effect (c := .memFill) rfl h
    rw [effect]
    refine ⟨fun hl => ?_, fun hl hm => ?_, fun hl hm => ?_⟩
    · have refused : cmdMemFill st = ended .badArg {} st := if_pos (bad hl)
      rw [refused]
    · have refused : cmdMemFill st = ended .protectedRange {} st := (if_neg (good hl)).trans (if_pos (guarded.2 hm))
      rw [refused]
    · have runs : cmdMemFill st = unlatched (busy (.memFill { start := memArgStart a, count := memArgCount a } a.a0) st) :=
        (if_neg (good hl)).trans (if_neg (mt guarded.1 hm))
      rw [runs, hstart, hcount]
  · intro st
    have effect : exec (.regionCrc high) s = .next (settle (cmdRegionCrc st)) := command_effect (c := .regionCrc) rfl h
    rw [effect]
    refine ⟨fun hl => ?_, fun hl => ?_⟩
    · have refused : cmdRegionCrc st = ended .badArg {} st := if_pos (bad hl)
      rw [refused]
    · have runs : cmdRegionCrc st =
          unlatched (busy (.regionCrc { start := memArgStart a, count := memArgCount a } 0xFFFF 0) st) := if_neg (good hl)
      rw [runs, hstart, hcount]

/-! ### CMD_CANCEL (R10) -/

theorem jobOf_eq_some (s : State) (j : Job) : jobOf s = some j ↔
    (∃ pattern, s.hp.seq.running = some (.memFill j pattern)) ∨
      ∃ crc errors, s.hp.seq.running = some (.regionCrc j crc errors) := by
  unfold jobOf
  rcases s.hp.seq.running with _ | (_ | _ | _ | _) <;> simp

theorem chunkGranted_iff (s : State) : chunkGranted s = true ↔
    ∃ f, s.mc.flight = some f ∧ f.who = .host ∧ (f.kind = .writeBurst ∨ f.kind = .readBurst) := by
  unfold chunkGranted
  cases s.mc.flight <;> simp

/-- A DEV_CTRL write is taken whether or not a soft reset is pending (R1, R179). -/
theorem hostWrite_devCtrl {s : State} (h : s.held = none) (w : Word) :
    hostWrite offDevCtrl w s = .next (settle (writeDevCtrl w s)) := by
  have taken : ¬ (s.sc.resetPending && offDevCtrl != offDevCtrl) = true := by simp
  exact (event_running h _).trans (by rw [if_neg taken]; rfl)

theorem exec_cmdCancel {w : Word} {s : State} (h : s.held = none) (h1 : w.getLsbD 1 = true) (h0 : w.getLsbD 0 = false) :
    exec (.cmdCancel w) s = .next (settle (requestCancel s)) := by
  have cancels : writeDevCtrl w s = requestCancel s := by
    unfold writeDevCtrl flag
    rw [h0, h1]
    rfl
  rw [← cancels]
  exact hostWrite_devCtrl h w

theorem requestCancel_of_fill {s : State} {j : Job} {pattern : Word} (hr : s.hp.seq.running = some (.memFill j pattern))
    (hc : j.cancel = false) : requestCancel s = if chunkGranted s then busy (.memFill { j with cancel := true } pattern) s
      else ended .cancelled { w2 := lowWord j.covered, w3 := highWord j.covered } s := by
  unfold requestCancel
  rw [hr]
  dsimp only
  rw [if_neg (by simp [hc])]
  rfl

theorem requestCancel_of_crc {s : State} {j : Job} {crc : Word} {errors : Nat}
    (hr : s.hp.seq.running = some (.regionCrc j crc errors)) (hc : j.cancel = false) : requestCancel s =
      if chunkGranted s then busy (.regionCrc { j with cancel := true } crc errors) s
      else ended .cancelled
        { w0 := crc, w1 := BitVec.ofNat 16 errors, w2 := lowWord j.covered, w3 := highWord j.covered } s := by
  unfold requestCancel
  rw [hr]
  dsimp only
  rw [if_neg (by simp [hc])]
  rfl

/-- No memory command runs, or the one that runs is asked to end already. -/
theorem requestCancel_of_done {s : State} (h : (jobOf s).all (·.cancel) = true) : requestCancel s = s := by
  have asked {j : Job} (hj : jobOf s = some j) : j.cancel = true := by simpa [hj] using h
  unfold requestCancel
  split
  next j pattern hr => exact if_pos (asked ((jobOf_eq_some s j).2 (.inl ⟨pattern, hr⟩)))
  next j crc errors hr => exact if_pos (asked ((jobOf_eq_some s j).2 (.inr ⟨crc, errors, hr⟩)))
  all_goals rfl

/-- Settles O24. -/
theorem cmdCancelEndsMemoryCommands : Obligations.CmdCancelEndsMemoryCommands := by
  refine ⟨fun s => ⟨jobOf_eq_some s, chunkGranted_iff s⟩, fun w s j running h1 h0 => ?_⟩
  rw [exec_cmdCancel running h1 h0]
  refine ⟨fun pattern hr hc => ?_, fun crc errors hr hc => ?_, fun done => by rw [requestCancel_of_done done]⟩
  · rw [requestCancel_of_fill hr hc]
    exact ⟨fun waits => by rw [if_neg (Bool.eq_false_iff.1 waits)]; rfl, fun granted => by rw [if_pos granted]⟩
  · rw [requestCancel_of_crc hr hc]
    exact ⟨fun waits => by rw [if_neg (Bool.eq_false_iff.1 waits)]; rfl, fun granted => by rw [if_pos granted]⟩

end Sys2Proof.Proofs

/-! PROOFS. The registers (Chapter 1): what writes store, ignore or refuse, the WIN_DATA write, CFG_DATA and START. -/

namespace Sys2Proof.Proofs

open Sys2Proof.Machine Sys2Proof.Safety Sys2Proof.Laws

/-! ### Stored writes (R5, R7, R16, R17) -/

theorem exec_registerWrite {s : State} (h : Listening s) (off : BitVec 6) (w : Word) :
    exec (.registerWrite false true off w) s = .next (settle (writeRegister off w s)) := hostWrite_listening h off w

theorem extract_low (w : Word) (n : Nat) : w.extractLsb' 0 n = BitVec.ofNat n w.toNat := by
  apply BitVec.eq_of_toNat_eq
  simp

theorem clampThresh_eq (n : Nat) : clampThresh n = max 1 (min 32 n) := by
  unfold clampThresh
  split_ifs <;> omega

/-- Settles O27. -/
theorem storedRegisterWrites : Obligations.StoredRegisterWrites := by
  intro w s h write
  have runs (off : BitVec 6) : write off = .next (settle (writeRegister off w s)) := exec_registerWrite h off w
  have thresh : clampThresh (bits w 0 6) = max 1 (min 32 (w.toNat % 64)) := by
    rw [clampThresh_eq, bits_low]
    rfl
  have age : bits w 0 8 = w.toNat % 256 := bits_low w 8
  have errors : w.extractLsb' 8 7 = BitVec.ofNat 7 (w.toNat / 256) := by
    apply BitVec.eq_of_toNat_eq
    simp [Nat.shiftRight_eq_div_pow]
  refine ⟨fun n hn => ?_, ?_, ?_, ?_, ?_, ?_⟩
  · rw [runs]
    interval_cases n <;> rfl
  · rw [runs, ← extract_low]
    rfl
  · rw [← thresh]
    exact hostWrite_listening h offEvqThresh w
  · rw [runs, ← age]
    rfl
  · rw [runs, ← extract_low]
    rfl
  · rw [runs, ← errors]
    rfl

/-! ### Ignored accesses (R1, R179) -/

/-- Positions that no write changes. -/
theorem writeRegister_ignored {off : BitVec 6} (h : off.toNat ≤ 0x03 ∨ (0x0E ≤ off.toNat ∧ off.toNat ≤ 0x13) ∨
    off.toNat = 0x16 ∨ (0x18 ≤ off.toNat ∧ off.toNat ≤ 0x1D) ∨ 0x26 ≤ off.toNat) (w : Word) (s : State) :
    writeRegister off w s = s := by
  unfold writeRegister
  split
  iterate 21 omega
  rfl

/-- Settles O34. -/
theorem ignoredAccesses : Obligations.IgnoredAccesses := by
  intro s running settled
  have still : settle s = s := (settled_of_running running).1 settled
  refine ⟨fun off w h => ?_, fun c off w hc pending other => ?_, fun off w => ?_, fun off w => ?_⟩
  · have nothing : exec (.registerWrite false true off w) s = .next (settle
        (if s.sc.resetPending && off != offDevCtrl then s else writeRegister off w s)) :=
      event_running running fun s => if s.sc.resetPending && off != offDevCtrl then s else writeRegister off w s
    rw [nothing, writeRegister_ignored h, ite_self, still]
  · have ignored : (s.sc.resetPending && off != offDevCtrl) = true := by
      rw [pending]
      exact bne_iff_ne.2 other
    rw [exec_of_hostWriteOf hc]
    exact (event_running running _).trans (by rw [if_pos ignored, still])
  · have drives : exec (.registerWrite true true off w) s = event (driveBus 0) s := by
      simp [exec, execRegisterWrite, hostAccess, running]
    have settles : settle (driveBus 0 s) = driveBus 0 (settle s) := rfl
    rw [drives, event_running running, settles, still]
    rfl
  · exact (event_running running id).trans (by rw [id, still])

/-! ### WIN_DATA (R15) -/

theorem protectedAddr_iff (s : State) (a : Nat) : protectedAddr s a = true ↔
    ∃ p : PortId, (s.pcfg p).dir = .capture ∧ (s.port p).state ≠ .closed ∧
      (s.pcfg p).baseUnits * 1024 ≤ a ∧ a < ((s.pcfg p).baseUnits + (s.pcfg p).sizeUnits) * 1024 := by
  simp only [protectedAddr, List.any_eq_true, mem_allPorts, true_and, Bool.and_eq_true, beq_iff_eq, bne_iff_ne,
    decide_eq_true_eq, and_assoc, ne_eq]
  rfl

/-- Settles O30: the five tests in order, then the buffered word. -/
theorem winDataWrite : Obligations.WinDataWrite := by
  intro w s h a fails inOpenCapture
  have runs : exec (.winDataWrite w) s = .next (settle (writeWinData w s)) := hostWrite_listening h offWinData w
  have dropped {b : BitVec 7} (hb : winWriteRefusal s = some b) : exec (.winDataWrite w) s = .next (settle (fails b)) := by
    rw [runs, writeWinData, hb]
    rfl
  have noCommand (hj : jobOf s = none) : ¬ memCommandRunning s = true := fun e => (memCommandRunning_iff s).1 e hj
  have guarded : protectedAddr s s.hp.win.addr.toNat = true ↔ inOpenCapture := protectedAddr_iff s _
  unfold winWriteRefusal at dropped
  refine ⟨fun hr => ?_, fun hr hj => ?_, fun hr hj hs => ?_, fun hr hj hs hp => ?_, fun hr hj hs hp hb => ?_,
    fun hr hj hs hp hb => ?_⟩
  · exact dropped (if_pos hr)
  · exact dropped (by rw [if_neg (not_not.2 hr), if_pos ((memCommandRunning_iff s).2 hj)]; rfl)
  · exact dropped (by rw [if_neg (not_not.2 hr), if_neg (noCommand hj), if_pos hs]; rfl)
  · exact dropped (by rw [if_neg (not_not.2 hr), if_neg (noCommand hj), if_neg (not_le.2 hs), if_pos (guarded.2 hp)]; rfl)
  · exact dropped (by
      rw [if_neg (not_not.2 hr), if_neg (noCommand hj), if_neg (not_le.2 hs), if_neg (mt guarded.1 hp),
        if_pos (Option.isSome_iff_ne_none.2 hb)]
      rfl)
  · have passes : winWriteRefusal s = none := by
      unfold winWriteRefusal
      rw [if_neg (not_not.2 hr), if_neg (noCommand hj), if_neg (not_le.2 hs), if_neg (mt guarded.1 hp),
        if_neg (by simp [hb])]
    rw [runs, writeWinData, passes, ← winAddr_succ]
    rfl

/-! ### CFG_DATA (R18) -/

theorem cfgWriteRefused_iff (s : State) : cfgWriteRefused s = true ↔
    s.sc.device ≠ .setup ∨ (s.hp.cfgIndex.toNat = 0 ∧ s.mc.state = .init) := by
  have zero : s.hp.cfgIndex = 0 ↔ s.hp.cfgIndex.toNat = 0 :=
    ⟨fun e => by simp [e], fun e => BitVec.eq_of_toNat_eq (by simpa using e)⟩
  simp only [cfgWriteRefused, Bool.or_eq_true, Bool.and_eq_true, bne_iff_ne, beq_iff_eq, zero, ne_eq]

theorem exec_cfgDataWrite {s : State} (h : Listening s) (w : Word) :
    exec (.cfgDataWrite w) s = .next (settle (writeCfgData w s)) := hostWrite_listening h offCfgData w

/-- Settles O31. -/
theorem cfgDataWriteRefusedOrAccepted : Obligations.CfgDataWriteRefusedOrAccepted := by
  intro w s h i refused
  rw [exec_cfgDataWrite h, writeCfgData_eq]
  refine ⟨fun hr => by rw [if_pos ((cfgWriteRefused_iff s).2 hr)]; rfl, fun hr hstart => ?_⟩
  rw [if_neg (mt (cfgWriteRefused_iff s).1 hr), cfgWriteActs_eq]
  have index : (cfgStored w s).hp.cfgIndex.toNat = i := rfl
  rw [index]
  congr 2
  by_cases h1 : i = 1
  · have noStart : ¬ flag w 0 = true := fun e => hstart ⟨h1, e⟩
    rw [if_pos h1, if_neg noStart, if_neg (by omega), if_neg (by omega)]
    rfl
  · by_cases h3 : i = 3
    · rw [if_neg h1, if_pos h3, if_pos h3, if_neg (by omega)]
      rfl
    · by_cases h4 : i = 4
      · rw [if_neg h1, if_neg h3, if_pos h4, if_neg h3]
        cases hf : w.getLsbD 15 with
        | true =>
          rw [if_pos (show flag w 15 = true from hf), if_neg nofun]
          rfl
        | false =>
          rw [if_neg (show ¬ flag w 15 = true from Bool.eq_false_iff.1 hf), if_pos ⟨h4, rfl⟩]
          rfl
      · rw [if_neg h1, if_neg h3, if_neg h4, if_neg h3, if_neg fun e => h4 e.1]
        rfl

/-! ### START (R44) -/

theorem prefetchGranted_eq (s : State) :
    prefetchGranted s = s.mc.flight.any fun f => f.kind == .wordRead && !f.orphan := by
  unfold prefetchGranted
  cases s.mc.flight <;> rfl

theorem writeGranted_eq (s : State) : writeGranted s = s.mc.flight.any fun f => f.kind == .wordWrite := by
  unfold writeGranted
  cases s.mc.flight <;> rfl

/-- What leaving READY does to the window: a PENDING prefetch not granted is dropped silently, a PENDING write not
granted with NOT_READY (R13, R16). -/
theorem dropWindow_eq (s : State) : dropWindow s = { s with hp := { s.hp with win :=
    { s.hp.win with
      latch := if s.hp.win.latch = .pending ∧ prefetchGranted s = false then .empty else s.hp.win.latch
      wbuf := if writeGranted s then s.hp.win.wbuf else none
      errors := if s.hp.win.wbuf = none ∨ writeGranted s = true then s.hp.win.errors else s.hp.win.errors ||| 0x20 } } } := by
  have dropped (t : State) : (if t.hp.win.wbuf.isSome ∧ writeGranted t = false then
      setWinError winNotReady (t.updWin fun w => { w with wbuf := none }) else t) =
      { t with hp := { t.hp with win := { t.hp.win with
        wbuf := if writeGranted t then t.hp.win.wbuf else none
        errors := if t.hp.win.wbuf = none ∨ writeGranted t = true then t.hp.win.errors else t.hp.win.errors ||| 0x20 } } } := by
    cases hg : writeGranted t with
    | true => rw [if_neg nofun, if_pos rfl, if_pos (.inr rfl)]
    | false =>
      cases hb : t.hp.win.wbuf with
      | none => rw [if_neg nofun, if_neg nofun, if_pos (.inl rfl), ← hb]
      | some b =>
        rw [if_pos ⟨rfl, rfl⟩, if_neg nofun, if_neg (by simp)]
        rfl
  have latched : (if s.hp.win.latch = .pending ∧ prefetchGranted s = false then
      s.updWin fun w => { w with latch := .empty } else s) = { s with hp := { s.hp with win := { s.hp.win with
        latch := if s.hp.win.latch = .pending ∧ prefetchGranted s = false then .empty else s.hp.win.latch } } } := by
    by_cases hl : s.hp.win.latch = .pending ∧ prefetchGranted s = false
    · rw [if_pos hl, if_pos hl]
      rfl
    · rw [if_neg hl, if_neg hl]
  rw [dropWindow]
  dsimp only
  rw [latched]
  exact dropped _

theorem cfgStored_start {s : State} (h : s.hp.cfgIndex = 1) (w : Word) :
    cfgStored w s = { s with hp := { s.hp with cfgLocked := false } } := by
  have kept : s.sc.cfg.store s.hp.cfgIndex.toNat w = s.sc.cfg := by rw [h]; rfl
  exact congrArg (fun c => { s with hp := { s.hp with cfgLocked := false }, sc := { s.sc with cfg := c } }) kept

theorem exec_start {s : State} (h : Listening s) (setup : s.sc.device = .setup) (index : s.hp.cfgIndex = 1) {w : Word}
    (start : w.getLsbD 0 = true) :
    exec (.start w) s = .next (settle (startInit { s with hp := { s.hp with cfgLocked := false } })) := by
  have runs : exec (.start w) s = .next (settle (writeCfgData w s)) := hostWrite_listening h offCfgData w
  have accepted : ¬ cfgWriteRefused s = true := fun e => by
    rcases (cfgWriteRefused_iff s).1 e with e | ⟨e, -⟩
    · exact e setup
    · simp [index] at e
  have one : (cfgStored w s).hp.cfgIndex.toNat = 1 := by
    have : (cfgStored w s).hp.cfgIndex = 1 := index
    rw [this]
    rfl
  rw [runs, writeCfgData_eq, if_neg accepted, cfgWriteActs_eq, if_pos one, if_pos (show flag w 0 = true from start), cfgStored_start index]

/-- The controller begins to wait for a transaction in flight, or issues PRECHARGE_ALL at once. -/
theorem issued_eq {s : State} (fl : Option Flight) (h : s.mc.flight = fl) :
    (if fl.isSome then s.updMc fun m => { m with init := .awaiting } else issuePrecharge s) =
      { s with mc := { s.mc with
        init := if fl.isSome then .awaiting else .step (max 2 (bits s.sc.cfg.memGeom 4 4)) (flag s.sc.cfg.memGeom 8) 0
        flight := if fl.isSome then fl else some { kind := .prechargeAll, who := .controller } } } := by
  cases fl with
  | none => rfl
  | some f =>
    exact congrArg (fun fl => { s with mc := { s.mc with init := .awaiting, flight := fl } }) h

/-- START in READY (R44): `t` is what the window and a memory command without a chunk in flight leave of the restarted
controller. -/
theorem startInit_ready_eq {s t : State} (hs : s.mc.state = .ready)
    (ht : (if memCommandRunning s && !chunkGranted s then endMemCommand .notAwake (dropWindow (restarted s))
      else dropWindow (restarted s)) = t) (hf : t.mc.flight = s.mc.flight) :
    startInit s = { t with mc := { t.mc with
      init := if s.mc.flight.isSome then .awaiting else .step (max 2 (bits t.sc.cfg.memGeom 4 4)) (flag t.sc.cfg.memGeom 8) 0
      flight := if s.mc.flight.isSome then s.mc.flight else some { kind := .prechargeAll, who := .controller } } } := by
  rw [← issued_eq _ hf, startInit, hs]
  exact congrArg (fun t => if s.mc.flight.isSome then t.updMc fun m => { m with init := .awaiting } else issuePrecharge t) ht

theorem endMemCommand_of_running {s : State} {c : Running} (h : s.hp.seq.running = some c) (r : Result) :
    endMemCommand r s = finish r (memCommandRes c) s := by
  unfold endMemCommand
  rw [h]

/-- Settles O33. -/
theorem startBeginsInitialisation : Obligations.StartBeginsInitialisation := by
  intro w s h setup index start st n pos pre reading writing win left
  rw [exec_start h setup index start]
  have dropped : dropWindow (restarted st) = { st with
      hp := { st.hp with win := win }
      mc := { s.mc with state := .init, owed := 0, intervalCount := 0, lossEpisode := false } } := by
    rw [dropWindow_eq, prefetchGranted_eq, writeGranted_eq]
    rfl
  have flight : (dropWindow (restarted st)).mc.flight = s.mc.flight := congrArg (fun t => t.mc.flight) dropped
  have runs : memCommandRunning st = true ↔ jobOf s ≠ none := memCommandRunning_iff s
  have ends {j : Job} (waits : chunkGranted s = false) (hj : jobOf s = some j) :
      (memCommandRunning st && !chunkGranted st) = true := by
    rw [show chunkGranted st = false from waits, runs.2 (by rw [hj]; nofun)]
    rfl
  refine ⟨fun hs => ?_, fun hs => ?_, fun hs quiet => ?_, fun hs waits j pattern hr => ?_, fun hs waits j crc errors hr => ?_⟩
  · unfold startInit
    rw [show st.mc.state = .off from hs]
    rfl
  · unfold startInit
    rw [show st.mc.state = .init from hs]
  · have keeps : ¬ (memCommandRunning st && !chunkGranted st) = true := fun e => by
      obtain ⟨running, waits⟩ := Bool.and_eq_true_iff.1 e
      rcases quiet with none | granted
      · exact runs.1 running none
      · rw [show chunkGranted st = true from granted] at waits
        cases waits
    rw [startInit_ready_eq (s := st) hs (if_neg keeps) flight, dropped]
  · have hj := (jobOf_eq_some s j).2 (.inl ⟨pattern, hr⟩)
    have running := (congrArg (fun t => t.hp.seq.running) dropped).trans hr
    rw [startInit_ready_eq (s := st) hs ((if_pos (ends waits hj)).trans (endMemCommand_of_running running .notAwake)) flight,
      dropped]
    rfl
  · have hj := (jobOf_eq_some s j).2 (.inr ⟨crc, errors, hr⟩)
    have running := (congrArg (fun t => t.hp.seq.running) dropped).trans hr
    rw [startInit_ready_eq (s := st) hs ((if_pos (ends waits hj)).trans (endMemCommand_of_running running .notAwake)) flight,
      dropped]
    rfl

end Sys2Proof.Proofs

/-! PROOFS. The configuration space read and written (Table 2-1), and the plain reads of the register window. -/

namespace Sys2Proof.Proofs

open Sys2Proof.Machine Sys2Proof.Safety Sys2Proof.Laws

/-! ### Table 2-1 -/

/-- A port's configuration words, by their place. -/
def portRead (k : PortCfg) (n : Nat) : Word :=
  if n = 0 then k.pcfg
  else if n = 1 then k.regionBase
  else if n = 2 then k.regionSize
  else if n = 3 then k.wm
  else if n = 4 then k.levels
  else if n = 5 then k.linkIdle
  else if n = 6 then k.fillWord
  else 0

/-- The port whose words stand at index `i`. -/
def cfgPort (i : Nat) : PortId := portOf (BitVec.ofNat 2 ((i - 8) / 8))

/-- The configuration words by index; MEM_CTRL reads the controller state. -/
def cfgRead (m : McState) (c : Cfg) (i : Nat) : Word :=
  if i = 0 then c.memGeom
  else if i = 1 then BitVec.ofNat 16 m.code
  else if i = 2 then c.refresh
  else if i = 3 then c.tickDiv
  else if i = 4 then c.arbCtrl
  else if i < 8 ∨ 40 ≤ i then 0
  else portRead (c.ports.get (cfgPort i)) ((i - 8) % 8)

theorem cfgWord_eq (s : State) : cfgWord s = cfgRead s.mc.state s.sc.cfg s.hp.cfgIndex.toNat := by
  unfold cfgWord cfgRead
  dsimp only
  split
  next h => rw [if_pos h]
  next h => rw [if_neg (by omega), if_pos h]; simp [pack]
  next h => rw [if_neg (by omega), if_neg (by omega), if_pos h]
  next h => rw [if_neg (by omega), if_neg (by omega), if_neg (by omega), if_pos h]
  next h => rw [if_neg (by omega), if_neg (by omega), if_neg (by omega), if_neg (by omega), if_pos h]
  next h0 h1 h2 h3 h4 =>
    rw [if_neg h0, if_neg h1, if_neg h2, if_neg h3, if_neg h4]
    by_cases low : s.hp.cfgIndex.toNat < 8
    · rw [if_pos low, if_pos (.inl low)]
    · by_cases high : s.hp.cfgIndex.toNat < 40
      · rw [if_neg low, if_pos high, if_neg (by omega)]
        change _ = portRead (s.sc.cfg.ports.get (portOf (BitVec.ofNat 2 ((s.hp.cfgIndex.toNat - 8) / 8)))) _
        have place : (s.hp.cfgIndex.toNat - 8) % 8 < 8 := Nat.mod_lt _ (by decide)
        generalize (s.hp.cfgIndex.toNat - 8) % 8 = n at place ⊢
        interval_cases n <;> rfl
      · rw [if_neg low, if_neg high, if_pos (.inr (by omega))]

theorem portIndex_cfgPort {i : Nat} (h : i - 8 < 32) : portIndex (cfgPort i) = (i - 8) / 8 := by
  have place : (i - 8) / 8 < 4 := by omega
  unfold cfgPort
  generalize (i - 8) / 8 = a at place ⊢
  interval_cases a <;> rfl

theorem store_port (c : Cfg) {i : Nat} (low : 8 ≤ i) (high : i < 40) (w : Word) : c.store i w =
    { c with ports := c.ports.set (cfgPort i) ((c.ports.get (cfgPort i)).store ((i - 8) % 8) w) } := by
  unfold Cfg.store
  split
  iterate 5 omega
  rw [if_neg (by omega), if_pos high]
  rfl

theorem store_unnamed (c : Cfg) {i : Nat} (h : 4 < i) (unnamed : i < 8 ∨ 40 ≤ i) (w : Word) : c.store i w = c := by
  unfold Cfg.store
  split
  iterate 5 omega
  rcases unnamed with low | high
  · rw [if_pos low]
  · rw [if_neg (by omega), if_neg (by omega)]

theorem portRead_store_other (k : PortCfg) {n m : Nat} (hn : n < 8) (h : m ≠ n) (w : Word) :
    portRead (k.store n w) m = portRead k m := by
  unfold portRead
  interval_cases n
  iterate 7
    simp only [if_neg h]
    rfl
  rfl

theorem portRead_store_same (k : PortCfg) {i : Nat} (low : 8 ≤ i) (high : i < 40) (w : Word) :
    portRead (k.store ((i - 8) % 8) w) ((i - 8) % 8) = w &&& fieldMask i := by
  unfold fieldMask
  rw [if_neg (by omega), if_neg (by omega), if_neg (by omega), if_neg (by omega), if_neg (by omega)]
  have place : (i - 8) % 8 < 8 := Nat.mod_lt _ (by decide)
  generalize (i - 8) % 8 = n at place ⊢
  interval_cases n
  iterate 6 rfl
  · exact (BitVec.and_allOnes (x := w)).symm
  · exact (BitVec.and_zero (x := w)).symm

theorem cfgRead_store_same (m : McState) (c : Cfg) {i : Nat} (h : i ≠ 1) (w : Word) :
    cfgRead m (c.store i w) i = w &&& fieldMask i := by
  have whole : w &&& 0xFFFF = w := BitVec.and_allOnes
  by_cases low : i < 5
  · interval_cases i
    · rfl
    · exact absurd rfl h
    · rfl
    · exact whole.symm
    · exact whole.symm
  · by_cases unnamed : i < 8 ∨ 40 ≤ i
    · unfold cfgRead fieldMask
      simp only [unnamed, if_true, show i ≠ 0 by omega, show i ≠ 1 by omega, show i ≠ 2 by omega, show i ≠ 3 by omega,
        show i ≠ 4 by omega, if_false]
      simp
    · unfold cfgRead
      rw [store_port c (by omega) (by omega), if_neg (by omega), if_neg (by omega), if_neg (by omega),
        if_neg (by omega), if_neg (by omega), if_neg unnamed]
      dsimp only
      rw [Quad.get_set_self, portRead_store_same _ (by omega) (by omega)]

theorem cfgRead_store_other (m : McState) (c : Cfg) {i j : Nat} (h : j ≠ i) (w : Word) :
    cfgRead m (c.store i w) j = cfgRead m c j := by
  by_cases low : i < 5
  · interval_cases i
    · unfold cfgRead
      simp only [if_neg h]
      rfl
    · rfl
    · unfold cfgRead
      simp only [if_neg h]
      rfl
    · unfold cfgRead
      simp only [if_neg h]
      rfl
    · unfold cfgRead
      simp only [if_neg h]
      rfl
  · by_cases unnamed : i < 8 ∨ 40 ≤ i
    · rw [store_unnamed c (by omega) unnamed]
    · rw [store_port c (by omega) (by omega)]
      unfold cfgRead
      dsimp only
      by_cases hj : j < 8 ∨ 40 ≤ j
      · simp only [hj, if_true]
      · simp only [hj, if_false]
        by_cases same : cfgPort j = cfgPort i
        · have places : (j - 8) % 8 ≠ (i - 8) % 8 := by
            have index := congrArg portIndex same
            rw [portIndex_cfgPort (by omega), portIndex_cfgPort (by omega)] at index
            omega
          rw [same, Quad.get_set_self, portRead_store_other _ (Nat.mod_lt _ (by decide)) places]
        · rw [Quad.get_set_ne _ _ same]

/-! ### The fields of the words (R24, R27, R30, R31) -/

theorem flag_iff_div (w : Word) (i : Nat) : flag w i = true ↔ w.toNat / 2 ^ i % 2 = 1 := by
  rw [flag_testBit, Nat.testBit_eq_decide_div_mod_eq, decide_eq_true_eq]

theorem divisor_eq (c : Cfg) : c.divisor = if c.tickDiv = 0 then 65536 else c.tickDiv.toNat := by
  unfold Cfg.divisor
  split
  next h => rw [if_pos (BitVec.eq_of_toNat_eq h)]
  next n h => rw [if_neg fun e => h (by rw [e]; rfl)]

theorem dir_eq_replay_iff (k : PortCfg) : k.dir = .replay ↔ k.pcfg.getLsbD 1 = true := by
  unfold PortCfg.dir flag
  cases k.pcfg.getLsbD 1 <;> simp

/-- R30: the policies by direction and FLOW code. -/
theorem flow_eq (k : PortCfg) : k.flow =
    if k.pcfg.toNat / 2 % 2 = 1 then (if k.pcfg.toNat / 4 % 4 = 0 then .fill else .hold)
    else if k.pcfg.toNat / 4 % 4 = 0 then .drop else if k.pcfg.toNat / 4 % 4 = 1 then .stall else .fault := by
  have dir : k.dir = if k.pcfg.toNat / 2 % 2 = 1 then .replay else .capture := by
    rw [PortCfg.dir]
    exact if_congr (flag_iff_div k.pcfg 1) rfl rfl
  have code : k.flowCode = k.pcfg.toNat / 4 % 4 := bits_toNat _ _ _
  unfold PortCfg.flow
  rw [dir, code]
  by_cases h : k.pcfg.toNat / 2 % 2 = 1
  · simp only [h, if_true]
    split <;> simp_all
  · simp only [h, if_false]
    split <;> simp_all

/-- Settles O32. -/
theorem configurationWordsReadBack : Obligations.ConfigurationWordsReadBack := by
  refine ⟨fun c => ⟨?_, divisor_eq c, rfl⟩, fun k => ?_, fun s i j w h => ?_⟩
  · unfold Cfg.memorySize
    unfold Cfg.sizeSelect
    rw [bits_low]
    rfl
  · refine ⟨rfl, dir_eq_replay_iff k, fun h => ?_, fun h => ?_, fun h => ?_, fun h => ?_, fun h => ?_, rfl, bits_toNat _ _ _,
      bits_low _ _, bits_low _ _, rfl, rfl, bits_low _ _, bits_toNat _ _ _, bits_low _ _, bits_toNat _ _ _, bits_low _ _⟩
    · rw [flow_eq, if_neg (by omega), if_pos (by omega)]
    · rw [flow_eq, if_neg (by omega), if_neg (by omega), if_pos (by omega)]
    · rw [flow_eq, if_neg (by omega), if_neg (by omega), if_neg (by omega)]
    · rw [flow_eq, if_pos (by omega), if_pos (by omega)]
    · rw [flow_eq, if_pos (by omega), if_neg (by omega)]
  · intro look
    have looks (c : Cfg) (n : BitVec 6) : look c n = cfgRead s.mc.state c n.toNat := cfgWord_eq _
    simp only [looks]
    exact ⟨cfgRead_store_same _ _ (fun e => h (BitVec.eq_of_toNat_eq e)) w,
      fun hj => cfgRead_store_other _ _ (fun e => hj (BitVec.eq_of_toNat_eq e)) w⟩

/-! ### Plain reads (R1, R2) -/

theorem exec_registerRead {s : State} (h : s.held = none) (off : BitVec 6) (w : Word) :
    exec (.registerWrite true false off w) s = .next (settle (driveBus (readValue s off) (readEffect off s))) :=
  hostRead_running h off

theorem readEffect_plain {off : BitVec 6} (h : off ∉ [(0x14 : BitVec 6), 0x15, 0x16, 0x19, 0x22]) (s : State) :
    readEffect off s = s := by
  simp only [List.mem_cons, List.not_mem_nil, or_false, not_or] at h
  obtain ⟨h14, h15, h16, h19, h22⟩ := h
  unfold readEffect
  split
  · next e => exact absurd (BitVec.eq_of_toNat_eq e) h14
  · next e => exact absurd (BitVec.eq_of_toNat_eq e) h15
  · next e => exact absurd (BitVec.eq_of_toNat_eq e) h16
  · next e => exact absurd (BitVec.eq_of_toNat_eq e) h19
  · next e => exact absurd (BitVec.eq_of_toNat_eq e) h22
  · rfl

theorem settle_driveBus (w : Word) (s : State) : settle (driveBus w s) = driveBus w (settle s) := rfl

theorem deviceStatus_fields (s : State) (d : Word) (h : d = devStatus s) :
    bits d 0 2 = s.sc.device.code ∧ bits d 2 2 = s.mc.state.code ∧ flag d 4 = s.mc.memSuspect ∧
      flag d 5 = s.sc.resetPending ∧ flag d 6 = s.hp.cfgLocked ∧ flag d 7 = false ∧
      bits d 8 2 = s.sc.resetCause.code ∧ bits d 10 6 = 0 := by
  have device : s.sc.device.code < 4 := by cases s.sc.device <;> decide
  have state : s.mc.state.code < 4 := by cases s.mc.state <;> decide
  have cause : s.sc.resetCause.code < 4 := by cases s.sc.resetCause <;> decide
  have suspect := Bool.toNat_lt s.mc.memSuspect
  have pending := Bool.toNat_lt s.sc.resetPending
  have locked := Bool.toNat_lt s.hp.cfgLocked
  subst h
  refine ⟨bits_pack [] _ 0 2 _ (by decide) device (by simp) (by simp),
    bits_pack [(0, s.sc.device.code)] _ 2 2 _ (by decide) state ?_ (by simp),
    flag_pack_bool [(0, s.sc.device.code), (2, s.mc.state.code)] _ 4 _ (by decide) ?_ (by simp),
    flag_pack_bool [(0, s.sc.device.code), (2, s.mc.state.code), (4, s.mc.memSuspect.toNat)] _ 5 _ (by decide) ?_ (by simp),
    flag_pack_bool [(0, s.sc.device.code), (2, s.mc.state.code), (4, s.mc.memSuspect.toNat), (5, s.sc.resetPending.toNat)]
      _ 6 _ (by decide) ?_ (by simp),
    flag_pack_gap [(0, s.sc.device.code), (2, s.mc.state.code), (4, s.mc.memSuspect.toNat), (5, s.sc.resetPending.toNat),
      (6, s.hp.cfgLocked.toNat)] _ 7 ?_ (by simp),
    bits_pack [(0, s.sc.device.code), (2, s.mc.state.code), (4, s.mc.memSuspect.toNat), (5, s.sc.resetPending.toNat),
      (6, s.hp.cfgLocked.toNat)] [] 8 2 _ (by decide) cause ?_ (by simp),
    bits_pack_zero _ 10 6 (by decide) ?_⟩ <;>
  · simp only [List.forall_mem_cons, List.not_mem_nil, false_imp_iff, implies_true, and_true]
    omega

theorem commandStatus_fields (q : Sequencer) (d : Word) (h : d = cmdStatus q) :
    flag d 0 = q.running.isSome ∧ flag d 1 = q.done ∧ flag d 2 = q.overlap ∧ flag d 3 = false ∧
      bits d 4 4 = q.result.code ∧ bits d 8 8 = 0 := by
  have result : q.result.code < 16 := by cases q.result <;> decide
  have running := Bool.toNat_lt q.running.isSome
  have done := Bool.toNat_lt q.done
  have overlap := Bool.toNat_lt q.overlap
  subst h
  refine ⟨flag_pack_bool [] _ 0 _ (by decide) (by simp) (by simp),
    flag_pack_bool [(0, q.running.isSome.toNat)] _ 1 _ (by decide) ?_ (by simp),
    flag_pack_bool [(0, q.running.isSome.toNat), (1, q.done.toNat)] _ 2 _ (by decide) ?_ (by simp),
    flag_pack_gap [(0, q.running.isSome.toNat), (1, q.done.toNat), (2, q.overlap.toNat)] _ 3 ?_ (by simp),
    bits_pack [(0, q.running.isSome.toNat), (1, q.done.toNat), (2, q.overlap.toNat)] [] 4 4 _ (by decide) result ?_ (by simp),
    bits_pack_zero _ 8 8 (by decide) ?_⟩ <;>
  · simp only [List.forall_mem_cons, List.not_mem_nil, false_imp_iff, implies_true, and_true]
    omega

theorem eventStatus_fields {e : EventUnit} (hq : e.queue.length ≤ 32) (hl : e.lostCount ≤ 255) :
    bits (evqStatus e) 0 6 = e.queue.length ∧ flag (evqStatus e) 6 = e.lost ∧ flag (evqStatus e) 7 = false ∧
      bits (evqStatus e) 8 8 = e.lostCount := by
  have lost := Bool.toNat_lt e.lost
  refine ⟨bits_pack [] _ 0 6 _ (by decide) (by omega) (by simp) (by simp),
    flag_pack_bool [(0, e.queue.length)] _ 6 _ (by decide) ?_ (by simp),
    flag_pack_gap [(0, e.queue.length), (6, e.lost.toNat)] _ 7 ?_ (by simp),
    bits_pack [(0, e.queue.length), (6, e.lost.toNat)] [] 8 8 _ (by decide) (by omega) ?_ (by simp)⟩ <;>
  · simp only [List.forall_mem_cons, List.not_mem_nil, false_imp_iff, implies_true, and_true]
    omega

/-- Bits between the fields are 0. -/
theorem bits_pack_gap (before after : List (Nat × Nat)) (lo len : Nat) (hw : lo + len ≤ 16)
    (hb : ∀ f ∈ before, f.2 * 2 ^ f.1 < 2 ^ lo) (ha : ∀ f ∈ after, lo + len ≤ f.1 ∨ f.2 = 0) :
    bits (pack (before ++ after)) lo len = 0 := by
  have zero : pack (before ++ (lo, 0) :: after) = pack (before ++ after) := by
    clear hb
    induction before with
    | nil => simp [pack]
    | cons f fs ih => simp only [List.cons_append, pack, ih]
  rw [← zero]
  exact bits_pack before after lo len 0 hw (by positivity) hb ha

theorem windowStatus_fields (x : Window) (d : Word) (h : d = winStatus x) :
    (flag d 0 = true ↔ ∃ v, x.latch = .ready v) ∧ flag d 1 = x.wbuf.isSome ∧ bits d 2 6 = 0 ∧
      bits d 8 7 = x.errors.toNat ∧ flag d 15 = false := by
  obtain ⟨ready, shown, means⟩ : ∃ ready : Bool, winStatus x =
      pack [(0, ready.toNat), (1, x.wbuf.isSome.toNat), (8, x.errors.toNat)] ∧ (ready = true ↔ ∃ v, x.latch = .ready v) := by
    unfold winStatus
    cases x.latch with
    | ready v => exact ⟨true, rfl, by simp⟩
    | empty => exact ⟨false, rfl, by simp⟩
    | pending => exact ⟨false, rfl, by simp⟩
  have hr := Bool.toNat_lt ready
  have hb := Bool.toNat_lt x.wbuf.isSome
  have he := x.errors.isLt
  rw [h, shown, ← means]
  have first : flag (pack [(0, ready.toNat), (1, x.wbuf.isSome.toNat), (8, x.errors.toNat)]) 0 = ready :=
    flag_pack_bool [] _ 0 _ (by decide) (by simp) (by simp)
  refine ⟨by rw [first], flag_pack_bool [(0, ready.toNat)] _ 1 _ (by decide) ?_ (by simp),
    bits_pack_gap [(0, ready.toNat), (1, x.wbuf.isSome.toNat)] _ 2 6 (by decide) ?_ (by simp),
    bits_pack [(0, ready.toNat), (1, x.wbuf.isSome.toNat)] [] 8 7 _ (by decide) he ?_ (by simp),
    flag_pack_gap [(0, ready.toNat), (1, x.wbuf.isSome.toNat), (8, x.errors.toNat)] [] 15 ?_ (by simp)⟩ <;>
  · simp only [List.forall_mem_cons, List.not_mem_nil, false_imp_iff, implies_true, and_true]
    omega

theorem portStatus_fields {x : Port} (hq : x.queue.length ≤ 8) (hf : x.fifo.length ≤ 64) :
    bits (pstat x) 0 3 = x.state.code ∧ bits (pstat x) 3 4 = x.queue.length ∧ bits (pstat x) 7 7 = x.fifo.length ∧
      flag (pstat x) 14 = x.idleDeclared ∧ flag (pstat x) 15 = false := by
  have state := stateCode_lt x.state
  have idle := Bool.toNat_lt x.idleDeclared
  refine ⟨bits_pack [] _ 0 3 _ (by decide) state (by simp) (by simp),
    bits_pack [(0, x.state.code)] _ 3 4 _ (by decide) (by omega) ?_ (by simp),
    bits_pack [(0, x.state.code), (3, x.queue.length)] _ 7 7 _ (by decide) (by omega) ?_ (by simp),
    flag_pack_bool [(0, x.state.code), (3, x.queue.length), (7, x.fifo.length)] [] 14 _ (by decide) ?_ (by simp),
    flag_pack_gap [(0, x.state.code), (3, x.queue.length), (7, x.fifo.length), (14, x.idleDeclared.toNat)] [] 15 ?_ (by simp)⟩ <;>
  · simp only [List.forall_mem_cons, List.not_mem_nil, false_imp_iff, implies_true, and_true]
    omega

theorem xen_fields (q : Quad Port) :
    (∀ p, flag (xenWord q) (portIndex p) = (q.get p).xen) ∧ bits (xenWord q) 4 12 = 0 := by
  have h0 := Bool.toNat_lt q.p0.xen
  have h1 := Bool.toNat_lt q.p1.xen
  have h2 := Bool.toNat_lt q.p2.xen
  have h3 := Bool.toNat_lt q.p3.xen
  refine ⟨fun p => ?_, bits_pack_zero _ 4 12 (by decide) ?_⟩
  · cases p
    · exact flag_pack_bool [] _ 0 _ (by decide) (by simp) (by simp)
    · refine flag_pack_bool [(0, q.p0.xen.toNat)] _ 1 _ (by decide) ?_ (by simp)
      simp only [List.forall_mem_cons, List.not_mem_nil, false_imp_iff, implies_true, and_true]
      omega
    · refine flag_pack_bool [(0, q.p0.xen.toNat), (1, q.p1.xen.toNat)] _ 2 _ (by decide) ?_ (by simp)
      simp only [List.forall_mem_cons, List.not_mem_nil, false_imp_iff, implies_true, and_true]
      omega
    · refine flag_pack_bool [(0, q.p0.xen.toNat), (1, q.p1.xen.toNat), (2, q.p2.xen.toNat)] [] 3 _ (by decide) ?_ (by simp)
      simp only [List.forall_mem_cons, List.not_mem_nil, false_imp_iff, implies_true, and_true]
      omega
  · simp only [List.forall_mem_cons, List.not_mem_nil, false_imp_iff, implies_true, and_true]
    omega

/-- The configuration words of port p, where Table 2-1 places them. -/
theorem cfgWord_port {s : State} (p : PortId) {n : Nat} (hn : n < 8) (h : s.hp.cfgIndex.toNat = 8 + n + 8 * portIndex p) :
    cfgWord s = portRead (s.pcfg p) n := by
  have index := portIndex_lt p
  have place : (8 + n + 8 * portIndex p - 8) % 8 = n := by omega
  have port : cfgPort (8 + n + 8 * portIndex p) = p := by
    have number : (8 + n + 8 * portIndex p - 8) / 8 = portIndex p := by omega
    unfold cfgPort
    rw [number]
    cases p <;> rfl
  rw [cfgWord_eq, h]
  unfold cfgRead
  rw [if_neg (by omega), if_neg (by omega), if_neg (by omega), if_neg (by omega), if_neg (by omega),
    if_neg (by omega), place, port]
  rfl

/-- An index without a field reads 0. -/
theorem cfgRead_unnamed {m : McState} {c : Cfg} {i : Nat} (h : fieldMask i = 0) (h1 : i ≠ 1) : cfgRead m c i = 0 := by
  by_cases low : i < 5
  · unfold fieldMask at h
    interval_cases i <;> simp_all
  · by_cases unnamed : i < 8 ∨ 40 ≤ i
    · unfold cfgRead
      rw [if_neg (by omega), if_neg (by omega), if_neg (by omega), if_neg (by omega), if_neg (by omega), if_pos unnamed]
    · unfold cfgRead
      rw [if_neg (by omega), if_neg (by omega), if_neg (by omega), if_neg (by omega), if_neg (by omega), if_neg unnamed]
      unfold fieldMask at h
      rw [if_neg (by omega), if_neg (by omega), if_neg (by omega), if_neg (by omega), if_neg unnamed] at h
      have place : (i - 8) % 8 < 8 := Nat.mod_lt _ (by decide)
      generalize (i - 8) % 8 = n at place h ⊢
      unfold portRead
      interval_cases n <;> simp_all

/-- R17: CFG_DATA reads the word that CFG_INDEX selects. -/
theorem cfgData_fields (s : State) (i : Nat) (h : i = s.hp.cfgIndex.toNat) :
    (i = 0 → cfgWord s = s.sc.cfg.memGeom) ∧
    (i = 1 → cfgWord s = BitVec.ofNat 16 s.mc.state.code) ∧
    (i = 2 → cfgWord s = s.sc.cfg.refresh) ∧
    (i = 3 → cfgWord s = s.sc.cfg.tickDiv) ∧
    (i = 4 → cfgWord s = s.sc.cfg.arbCtrl) ∧
    (∀ p : PortId,
      (i = 8 + 8 * portIndex p → cfgWord s = (s.pcfg p).pcfg) ∧
      (i = 9 + 8 * portIndex p → cfgWord s = (s.pcfg p).regionBase) ∧
      (i = 10 + 8 * portIndex p → cfgWord s = (s.pcfg p).regionSize) ∧
      (i = 11 + 8 * portIndex p → cfgWord s = (s.pcfg p).wm) ∧
      (i = 12 + 8 * portIndex p → cfgWord s = (s.pcfg p).levels) ∧
      (i = 13 + 8 * portIndex p → cfgWord s = (s.pcfg p).linkIdle) ∧
      (i = 14 + 8 * portIndex p → cfgWord s = (s.pcfg p).fillWord)) ∧
    (fieldMask i = 0 ∧ i ≠ 1 → cfgWord s = 0) := by
  have reads {n : Nat} (e : i = n) : cfgWord s = cfgRead s.mc.state s.sc.cfg n := by rw [cfgWord_eq, ← h, e]
  refine ⟨fun e => reads e, fun e => reads e, fun e => reads e, fun e => reads e, fun e => reads e, fun p =>
    ⟨fun e => cfgWord_port (n := 0) p (by decide) (h.symm.trans e), fun e => cfgWord_port (n := 1) p (by decide) (h.symm.trans e),
      fun e => cfgWord_port (n := 2) p (by decide) (h.symm.trans e), fun e => cfgWord_port (n := 3) p (by decide) (h.symm.trans e),
      fun e => cfgWord_port (n := 4) p (by decide) (h.symm.trans e), fun e => cfgWord_port (n := 5) p (by decide) (h.symm.trans e),
      fun e => cfgWord_port (n := 6) p (by decide) (h.symm.trans e)⟩,
    fun e => (reads rfl).trans (cfgRead_unnamed e.1 e.2)⟩

theorem winAddr_halves (s : State) :
    (readValue s 0x20).toNat = s.hp.win.addr.toNat % 65536 ∧ (readValue s 0x21).toNat = s.hp.win.addr.toNat / 65536 := by
  have whole := s.hp.win.addr.isLt
  have low : readValue s 0x20 = s.hp.win.addr.extractLsb' 0 16 := rfl
  have high : readValue s 0x21 = (s.hp.win.addr.extractLsb' 16 6).setWidth 16 := rfl
  rw [low, high, BitVec.toNat_setWidth, BitVec.extractLsb'_toNat, BitVec.extractLsb'_toNat, Nat.shiftRight_eq_div_pow,
    Nat.shiftRight_eq_div_pow]
  omega

/-- A position without a register, DEV_CTRL and CMD read 0000H (R1). -/
theorem readValue_unlisted {off : BitVec 6} (h : off.toNat = 0x04 ∨ off.toNat = 0x05 ∨ off.toNat = 0x27 ∨ 0x34 ≤ off.toNat)
    (s : State) : readValue s off = 0 := by
  have named {n : Nat} (e : off.toNat = n) (hn : n < 64) : off = BitVec.ofNat 6 n := by
    rw [← e, BitVec.ofNat_toNat, BitVec.setWidth_eq]
  rcases h with h | h | h | h
  · rw [named h (by decide)]
    rfl
  · rw [named h (by decide)]
    rfl
  · rw [named h (by decide)]
    rfl
  · have top := off.isLt
    generalize e : off.toNat = n at h top
    rw [named e top]
    interval_cases n <;> rfl

/-- Settles O35: the words of section 1.2, position by position. -/
theorem plainReads : Obligations.PlainReads := by
  refine ⟨rfl, rfl, rfl, rfl, rfl, fun s w running settled => ?_⟩
  have still : settle s = s := (settled_of_running running).1 settled
  have free (off : BitVec 6) (value : readValue s off = Config.unstatedRead s.freeIndex &&& 0x000F)
      (effect : readEffect off s = { s with freeIndex := s.freeIndex + 1 }) : bits (readValue s off) 4 12 = 0 ∧
      exec (.registerWrite true false off w) s =
        .next { s with hp := { s.hp with dataBus := readValue s off }, freeIndex := s.freeIndex + 1 } := by
    have counted : settle { s with freeIndex := s.freeIndex + 1 } = { settle s with freeIndex := s.freeIndex + 1 } := rfl
    refine ⟨?_, ?_⟩
    · rw [value, bits_top_eq_zero _ _ _ rfl, BitVec.toNat_and]
      exact Nat.and_lt_two_pow _ (by decide)
    · rw [exec_registerRead running, effect, settle_driveBus, counted, still]
      rfl
  refine ⟨fun off plain => ?_, fun off h => ?_, ?_, ?_, ?_, rfl, rfl, rfl, fun d h => deviceStatus_fields s d h,
    ⟨rfl, rfl, rfl, rfl, rfl, rfl, rfl, rfl⟩, fun d h => commandStatus_fields _ d h, ⟨rfl, rfl, rfl, rfl⟩, ?_,
    fun d h hq hl => ?_, ⟨rfl, rfl, rfl, rfl⟩, rfl, rfl, (winAddr_halves s).1, (winAddr_halves s).2,
    fun d h => windowStatus_fields _ d h, ?_, fun i h => cfgData_fields s i h, fun p d hq hf h => ?_, fun p => ?_, ?_, rfl,
    fun off h => readValue_unlisted h s⟩
  · rw [exec_registerRead running, readEffect_plain plain, settle_driveBus, still]
    rfl
  · rcases h with rfl | rfl
    · exact free _ rfl rfl
    · exact free _ rfl rfl
  · rfl
  · rfl
  · rfl
  · have whole := s.eu.intEn.isLt
    exact (BitVec.toNat_setWidth _ _).trans (Nat.mod_eq_of_lt (by omega))
  · subst h
    exact eventStatus_fields hq hl
  · have whole := s.hp.cfgIndex.isLt
    exact (BitVec.toNat_setWidth _ _).trans (Nat.mod_eq_of_lt (by omega))
  · have value : readValue s (BitVec.ofNat 6 (0x28 + portIndex p)) = pstat (s.port p) := by cases p <;> rfl
    rw [h, value]
    exact portStatus_fields hq hf
  · exact ⟨(xen_fields s.ports).1 p, by cases p <;> rfl, by cases p <;> rfl⟩
  · exact (xen_fields s.ports).2

end Sys2Proof.Proofs

/-! PROOFS. The links (Chapter 5): beats and held offers on capture and replay ports. -/

namespace Sys2Proof.Proofs

open Sys2Proof.Machine Sys2Proof.Safety Sys2Proof.Laws

/-! ### Held offers and episodes (R76, R82, R84, R88, R89) -/

theorem withPort_withPort (p : PortId) (x y : Port) (s : State) : withPort p x (withPort p y s) = withPort p x s :=
  congrArg (fun q => { s with ports := q }) (Quad.set_set _ _ _ _)

/-- A pair of branches that change port p alike, with a record in one of them. -/
theorem ite_withPort (c : Prop) [Decidable c] (p : PortId) (y : Port) (r : Report) (s : State) :
    (if c then withPort p y s else post r (withPort p y s)) = withPort p y (if c then s else post r s) := by
  split_ifs <;> rfl

theorem updPort_withPort (p : PortId) (f : Port → Port) (y : Port) (s : State) :
    (withPort p y s).updPort p f = withPort p (f y) s := by
  rw [updPort_eq_withPort, withPort_port_self, withPort_withPort]

theorem startOverrun_withPort (p : PortId) (y : Port) (s : State) : startOverrun p (withPort p y s) =
    withPort p { y with overrun := true } (if y.overrun then s else post ⟨.overrun, .port p, y.headTag, .noDetail, 0⟩ s) := by
  rw [startOverrun_eq, withPort_port_self, ite_withPort, withPort_withPort]

theorem startUnderrun_withPort (p : PortId) (y : Port) (s : State) : startUnderrun p (withPort p y s) =
    withPort p { y with underrun := true }
      (if y.underrun then s else post ⟨.underrun, .port p, y.headTag, .noDetail, 0⟩ s) := by
  rw [startUnderrun_eq, withPort_port_self, ite_withPort, withPort_withPort]

theorem startOverrun_first {p : PortId} {s : State} (h : (s.port p).overrun = false) : startOverrun p s =
    withPort p { s.port p with overrun := true } (post ⟨.overrun, .port p, (s.port p).headTag, .noDetail, 0⟩ s) := by
  rw [startOverrun_eq, if_neg (Bool.eq_false_iff.1 h)]

theorem startOverrun_again {p : PortId} {s : State} (h : (s.port p).overrun = true) : startOverrun p s = s := if_pos h

theorem startUnderrun_first {p : PortId} {s : State} (h : (s.port p).underrun = false) : startUnderrun p s =
    withPort p { s.port p with underrun := true } (post ⟨.underrun, .port p, (s.port p).headTag, .noDetail, 0⟩ s) := by
  rw [startUnderrun_eq, if_neg (Bool.eq_false_iff.1 h)]

theorem startUnderrun_again {p : PortId} {s : State} (h : (s.port p).underrun = true) : startUnderrun p s = s := if_pos h

/-- R82: the only held offer of a capture link that acts. -/
def Stalled (k : PortCfg) (x : Port) : Prop :=
  (x.state = .idle ∨ x.state = .active) ∧ k.flow = .stall ∧ 64 ≤ x.fifo.length

/-- R88: the only held offer of a replay link that acts. -/
def Starved (k : PortCfg) (x : Port) : Prop := x.state = .active ∧ k.flow = .hold ∧ x.fifo = []

theorem heldOffer_capture {p : PortId} {s : State} (hd : (s.pcfg p).dir = .capture) :
    (Stalled (s.pcfg p) (s.port p) → heldOffer p s = startOverrun p s) ∧
      (¬ Stalled (s.pcfg p) (s.port p) → heldOffer p s = s) := by
  have test : ((s.port p).state.working && (s.pcfg p).flow == .stall && decide (64 ≤ (s.port p).fifo.length)) = true ↔
      Stalled (s.pcfg p) (s.port p) := by
    rw [Bool.and_eq_true, Bool.and_eq_true, working_iff, beq_iff_eq, decide_eq_true_eq, and_assoc]
    rfl
  have offer : heldOffer p s = if (s.port p).state.working && (s.pcfg p).flow == .stall &&
      decide (64 ≤ (s.port p).fifo.length) then startOverrun p s else s := by
    unfold heldOffer
    dsimp only
    rw [hd]
  exact ⟨fun h => offer.trans (if_pos (test.2 h)), fun h => offer.trans (if_neg (mt test.1 h))⟩

theorem heldOffer_replay {p : PortId} {s : State} (hd : (s.pcfg p).dir = .replay) :
    (Starved (s.pcfg p) (s.port p) → heldOffer p s = startUnderrun p s) ∧
      (¬ Starved (s.pcfg p) (s.port p) → heldOffer p s = s) := by
  have test : ((s.port p).state == .active && (s.pcfg p).flow == .hold && (s.port p).fifo.isEmpty) = true ↔
      Starved (s.pcfg p) (s.port p) := by
    rw [Bool.and_eq_true, Bool.and_eq_true, beq_iff_eq, beq_iff_eq, List.isEmpty_iff, and_assoc]
    rfl
  have offer : heldOffer p s = if (s.port p).state == .active && (s.pcfg p).flow == .hold &&
      (s.port p).fifo.isEmpty then startUnderrun p s else s := by
    unfold heldOffer
    dsimp only
    rw [hd]
  exact ⟨fun h => offer.trans (if_pos (test.2 h)), fun h => offer.trans (if_neg (mt test.1 h))⟩

/-! ### Capture beats (R80, R81, R83) -/

/-- The word is discarded and counted, and the episode it belongs to is reported once (R81, R84). -/
theorem dropBeat_eq (p : PortId) (s : State) : dropBeat p s =
    withPort p { s.port p with drop := saturate 65535 (s.port p).drop, overrun := true, idleCount := 0, idleDeclared := false }
      (if (s.port p).overrun then s else post ⟨.overrun, .port p, (s.port p).headTag, .noDetail, 0⟩ s) :=
  (congrArg (State.updPort p Port.beatSeen) (startOverrun_withPort _ _ _)).trans (updPort_withPort _ _ _ _)

theorem captureBeat_of_capture {p : PortId} {s : State} (hd : (s.pcfg p).dir = .capture) (w : Word) (mark : Bool) :
    captureBeat p w mark s =
      if readyPin (s.pcfg p) (s.port p) = false then heldOffer p s
      else if (s.port p).fifo.length < 64 then s.updPort p (Port.accept w mark)
      else if (s.pcfg p).flow = .drop then dropBeat p s else fault p .overrun s := if_neg (not_not.2 hd)

/-- READY is low exactly on a port that is not open and on a STALL port whose FIFO is full (R79). -/
theorem readyPin_eq_false_iff (k : PortCfg) (x : Port) :
    readyPin k x = false ↔ ¬ (x.state = .idle ∨ x.state = .active) ∨ Stalled k x := by
  unfold Stalled
  rw [readyPin_eq, decide_eq_false_iff_not]
  constructor
  · intro low
    by_cases working : x.state = .idle ∨ x.state = .active
    · have full : ¬ (x.fifo.length < 64 ∨ k.flow ≠ .stall) := fun e => low ⟨working, e⟩
      exact .inr ⟨working, not_not.1 fun e => full (.inr e), not_lt.1 fun e => full (.inl e)⟩
    · exact .inl working
  · rintro (shut | ⟨-, stall, full⟩) ⟨working, open'⟩
    · exact shut working
    · rcases open' with room | other
      · omega
      · exact other stall

/-- Settles O36. -/
theorem captureLinkEvents : Obligations.CaptureLinkEvents := by
  refine ⟨fun p w mark s running hd => ?_, fun p w mark s running hd => ?_⟩
  · have other : captureBeat p w mark s = s := if_pos (by rw [hd]; nofun)
    have runs : exec (.captureBeat p w mark) s = .next (settle (captureBeat p w mark s)) := event_running running _
    rw [runs, other]
  intro x working tag overrun drop stalled
  have beat : exec (.captureBeat p w mark) s = .next (settle (captureBeat p w mark s)) := event_running running _
  have offer : exec (.heldOffer p) s = .next (settle (heldOffer p s)) := event_running running _
  obtain ⟨acts, rests⟩ := heldOffer_capture hd
  rw [beat, offer, captureBeat_of_capture hd]
  have low := readyPin_eq_false_iff (s.pcfg p) x
  have begins : x.overrun = false → startOverrun p s = withPort p { x with overrun := true } overrun := startOverrun_first
  have high (hw : working) (room : ¬ stalled) : ¬ readyPin (s.pcfg p) (s.port p) = false := fun e =>
    (low.1 e).elim (fun h => h hw) room
  refine ⟨fun hw room => ?_, fun hw full hf => ?_, fun hw full hf => ?_, fun shut => ?_, fun hs ho => ?_, fun hs ho => ?_,
    fun hs ho => ?_, fun quiet => ?_⟩
  · have open' : ¬ stalled := fun e => absurd e.2.2 (not_le.2 room)
    rw [if_neg (high hw open'), if_pos room]
    rfl
  · have open' : ¬ stalled := fun e => absurd (hf.symm.trans e.2.1) nofun
    rw [if_neg (high hw open'), if_neg (not_lt.2 full), if_pos hf, dropBeat_eq]
    rfl
  · have open' : ¬ stalled := fun e => absurd (hf.symm.trans e.2.1) nofun
    have faultable : (s.port p).state.faultable = true := by
      rcases hw with h | h
      · rw [h]
        rfl
      · rw [h]
        rfl
    rw [if_neg (high hw open'), if_neg (not_lt.2 full), if_neg (by rw [hf]; nofun), fault_eq_faultState _ faultable]
  · rw [if_pos (low.2 (.inl shut)), rests fun e => shut e.1]
  · rw [if_pos (low.2 (.inr hs)), acts hs, begins ho]
  · rw [if_pos (low.2 (.inr hs)), acts hs, startOverrun_again ho]
  · rw [acts hs, begins ho]
  · by_cases hs : stalled
    · rw [acts hs, startOverrun_again (by simpa using fun ho => quiet ⟨hs, ho⟩)]
    · rw [rests hs]

/-! ### Replay beats (R86, R87) -/

/-- A filler is counted, and the episode it belongs to is reported once (R87, R89). -/
theorem filler_eq (p : PortId) (s : State) : filler p s =
    withPort p { s.port p with fill := saturate 65535 (s.port p).fill, underrun := true, idleCount := 0, idleDeclared := false }
      (if (s.port p).underrun then s else post ⟨.underrun, .port p, (s.port p).headTag, .noDetail, 0⟩ s) :=
  (congrArg (State.updPort p Port.beatSeen) (startUnderrun_withPort _ _ _)).trans (updPort_withPort _ _ _ _)

theorem guardHit_iff (h : QEntry) (b : Boundary) : guardHit h b = true ↔ h.desc.guard = some b.index ∧ b.rep = 1 := by
  unfold guardHit
  rw [Bool.and_eq_true, beq_iff_eq, beq_iff_eq]

/-- The sequencer's part of an emission, once the word has left the FIFO (R112, R113). -/
theorem emitSteps_eq {p : PortId} {e : FifoWord} {s : State} {h : QEntry} {t : List QEntry} {b : Boundary}
    (hq : (s.port p).queue = h :: t) (hb : e.boundary = some b) :
    let moved := withPort p { s.port p with queue := { h with progress := h.progress + 1 } :: t } s
    let guarded := if h.desc.guard = some b.index ∧ b.rep = 1 then
      post ⟨.guard, .port p, h.desc.tag, .noDetail, b.index⟩ moved else moved
    emitSteps p e s = if b.final then doneHead p .noDetail guarded else guarded := by
  intro moved guarded
  have advanced : s.updPort p (Port.advance 1) = moved := by
    rw [updPort_eq_withPort, Port.advance, hq]
  have reported : (if guardHit h b then postPort p .guard h.desc.tag .noDetail b.index moved else moved) = guarded :=
    if_congr (guardHit_iff h b) rfl rfl
  unfold emitSteps
  rw [hq, hb]
  dsimp only
  rw [advanced, reported]

theorem replayBeat_of_replay {p : PortId} {s : State} (hd : (s.pcfg p).dir = .replay) :
    ((replayPins (s.pcfg p) (s.port p)).valid = false → replayBeat p s = heldOffer p s) ∧
    ((replayPins (s.pcfg p) (s.port p)).valid = true → (s.port p).fifo = [] → replayBeat p s = filler p s) ∧
    ((replayPins (s.pcfg p) (s.port p)).valid = true → ∀ e rest, (s.port p).fifo = e :: rest →
      replayBeat p s = emit p e s) := by
  refine ⟨fun low => ?_, fun high hf => ?_, fun high e rest hf => ?_⟩
  · exact (if_neg (not_not.2 hd)).trans (if_pos low)
  · exact (if_neg (not_not.2 hd)).trans ((if_neg (by simp [high])).trans (by rw [hf]))
  · exact (if_neg (not_not.2 hd)).trans ((if_neg (by simp [high])).trans (by rw [hf]))

/-- Settles O37. -/
theorem replayLinkEvents : Obligations.ReplayLinkEvents := by
  refine ⟨fun p s running hd => ?_, fun p s running hd => ?_⟩
  · have other : replayBeat p s = s := if_pos (by rw [hd]; nofun)
    have runs : exec (.replayBeat p) s = .next (settle (replayBeat p s)) := event_running running _
    rw [runs, other]
  intro x tag underrun fill seen waiting
  have beat : exec (.replayBeat p) s = .next (settle (replayBeat p s)) := event_running running _
  have offer : exec (.heldOffer p) s = .next (settle (heldOffer p s)) := event_running running _
  obtain ⟨acts, rests⟩ := heldOffer_replay hd
  obtain ⟨held, fills, emits⟩ := replayBeat_of_replay hd
  rw [beat, offer]
  have begins : x.underrun = false → startUnderrun p s = withPort p { x with underrun := true } underrun := startUnderrun_first
  have starves (hw : waiting) : replayBeat p s = startUnderrun p s := by
    obtain ⟨active, hold, empty⟩ := hw
    have low : (replayPins (s.pcfg p) (s.port p)).valid = false := by
      rw [replayPins_active_empty _ empty active, if_neg (by rw [hold]; nofun)]
    rw [held low, acts ⟨active, hold, empty⟩]
  refine ⟨fun e rest h t b hs hf hq hb => ?_, fun hf hs hflow => ?_, fun silent => ?_, fun hw hu => ?_,
    fun hw hu => ?_, fun hw hu => ?_, fun quiet => ?_⟩
  · intro moved guarded
    have high : (replayPins (s.pcfg p) (s.port p)).valid = true := by rw [replayPins_word _ hf hs]
    have left : (s.updPort p fun x => { x with fifo := x.fifo.tail }) = withPort p { x with fifo := rest } s := by
      rw [updPort_eq_withPort, hf]
      rfl
    have self : (withPort p { x with fifo := rest } s).port p = { x with fifo := rest } := withPort_port_self _ _ _
    have steps := emitSteps_eq (s := withPort p { x with fifo := rest } s) ((congrArg Port.queue self).trans hq) hb
    rw [self, withPort_withPort] at steps
    rw [emits high e rest hf, emit, left, steps, closeTest_eq_drainOver]
    rfl
  · have high : (replayPins (s.pcfg p) (s.port p)).valid = true := by
      rw [replayPins_active_empty _ hf hs, if_pos hflow]
    rw [fills high hf, filler_eq]
    rfl
  · have low : (replayPins (s.pcfg p) (s.port p)).valid = false := by
      rcases silent with h | h | h | ⟨h, empty⟩
      · rw [replayPins_silent _ (.inl h)]
      · rw [replayPins_silent _ (.inr (.inl h))]
      · rw [replayPins_silent _ (.inr (.inr h))]
      · rw [replayPins_closing_empty _ empty h]
    rw [held low, rests fun e => by
      have active : x.state = .active := e.1
      rcases silent with h | h | h | ⟨h, -⟩ <;> exact absurd (active.symm.trans h) nofun]
  · rw [starves hw, begins hu]
  · rw [starves hw, startUnderrun_again hu]
  · rw [acts hw, begins hu]
  · by_cases hw : waiting
    · rw [acts hw, startUnderrun_again (by simpa using fun hu => quiet ⟨hw, hu⟩)]
    · rw [rests hw]

end Sys2Proof.Proofs

/-! PROOFS. Power-on and pin reset, the state after reset, and what a burst writes into memory. -/

namespace Sys2Proof.Proofs

open Sys2Proof.Machine Sys2Proof.Safety Sys2Proof.Laws

/-! ### Power-on and pin reset (R177, R181) -/

/-- Settles O53. -/
theorem powerOnAndPinReset : Obligations.PowerOnAndPinReset := by
  intro s clean
  have begins : exec .pinReset s = .next (beginReset (pinCause s.held) s) := rfl
  refine ⟨rfl, fun h => ?_, fun h => ?_, fun cause h => ?_, fun h => ?_, fun c cause h hc => exec_held hc h⟩
  · have pin : pinCause s.held = .pin := by
      unfold pinCause
      split
      next e => exact absurd e h
      all_goals rfl
    rw [begins, pin]
    rfl
  · rw [begins, h]
    rfl
  · have released : exec .resetRelease s = .next (hardReset cause s) := by
      rw [exec, execResetRelease, h]
    exact released
  · have nothing : exec .resetRelease s = event id s := by
      rw [exec, execResetRelease, h]
    rw [nothing, event_running h]
    rfl

/-- Settles O54: the state after reset is what a reset leaves. -/
theorem resetMeetsEveryInvariant : Obligations.ResetMeetsEveryInvariant := by
  obtain ⟨carries, words⟩ : Fits State.reset := fits_hardReset .power State.reset
  have ports : PortsSound State.reset := fun p => by cases p <;> exact portSound_reset
  have fairness : FairnessSound State.reset :=
    ⟨fun _ => ⟨rfl, fun p => by cases p <;> rfl⟩, fun p _ => by cases p <;> rfl⟩
  exact ⟨rfl, eventUnitSound_reset, ports, fairness, controllerSound_hardReset .power State.reset, settle_reset, carries,
    (transfersSound_iff _).2 words⟩

/-! ### Memory writes (R42, R48, R53, R54) -/

/-- The parity bit of a byte is 1 when the byte holds an even number of 1 bits (R42). -/
theorem parityBit_eq (w : Word) (lane : Nat) :
    parityBit w lane = decide ((List.range 8).countP (fun i => w.getLsbD (8 * lane + i)) % 2 = 0) := by
  have byte (i : Nat) (hi : i < 8) : (BitVec.ofNat 16 (bits w (8 * lane) 8)).getLsbD i = w.getLsbD (8 * lane + i) := by
    unfold bits
    rw [BitVec.getLsbD_ofNat, BitVec.testBit_toNat, BitVec.getLsbD_extractLsb', decide_eq_true hi,
      decide_eq_true (show i < 16 by omega), Bool.true_and, Bool.true_and]
  have count : (List.range 8).countP (fun i => (BitVec.ofNat 16 (bits w (8 * lane) 8)).getLsbD i) =
      (List.range 8).countP fun i => w.getLsbD (8 * lane + i) :=
    List.countP_congr fun i hi => by rw [byte i (List.mem_range.1 hi)]
  unfold parityBit
  rw [xorBits_eq, count, ← decide_not, decide_eq_decide]
  omega

theorem parityOf_getLsbD (w : Word) :
    (parityOf w).getLsbD 0 = parityBit w 0 ∧ (parityOf w).getLsbD 1 = parityBit w 1 := by
  unfold parityOf
  cases parityBit w 0 <;> cases parityBit w 1 <;> decide

/-- A byte and its parity bit hold an odd number of 1 bits exactly when the bit is the one generated (R42). -/
theorem parityBit_eq_iff (m : MemWord) (lane : Nat) :
    m.parity.getLsbD lane = parityBit m.data lane ↔ onesInLane m lane % 2 = 1 := by
  rw [parityBit_eq, onesInLane]
  cases m.parity.getLsbD lane
  · rw [Bool.toNat_false, eq_comm, decide_eq_false_iff_not]
    omega
  · rw [Bool.toNat_true, eq_comm, decide_eq_true_eq]
    omega

theorem isBad_eq_false_iff (m : MemWord) : isBad m = false ↔ GoodParity m := by
  obtain ⟨lane0, lane1⟩ := parityOf_getLsbD m.data
  rw [isBad, bne_eq_false_iff_eq, GoodParity, ← parityBit_eq_iff, ← parityBit_eq_iff, ← lane0, ← lane1]
  refine ⟨fun e => by rw [e]; exact ⟨rfl, rfl⟩, fun ⟨h0, h1⟩ => BitVec.eq_of_getLsbD_eq fun i hi => ?_⟩
  interval_cases i
  · exact h0
  · exact h1

/-- Addresses less than 1048576 words apart stand in different cells, whatever the size attached. -/
theorem cellOf_add_ne {addr i k : Nat} (h : i < k) (hk : k < 1048576) : cellOf (addr + i) ≠ cellOf (addr + k) := by
  rcases cellOf_cases with e | e | e <;> rw [e, e] <;> omega

/-- A burst's words stand in their cells, each with its own parity (R48, R53). -/
theorem memLookup_memWrite (m : Memory) (addr : Nat) {ws : List Word} (hlen : ws.length ≤ 1048576) {k : Nat} {w : Word}
    (h : ws[k]? = some w) : memLookup (memWrite m addr ws) (cellOf (addr + k)) = some ⟨w, parityOf w⟩ := by
  induction ws generalizing m addr k with
  | nil => simp at h
  | cons v ws ih =>
    rw [List.length_cons] at hlen
    rw [memWrite]
    cases k with
    | zero =>
      obtain rfl : v = w := by simpa using h
      have kept : ∀ j, j < ws.length → cellOf (addr + 0) ≠ cellOf (addr + 1 + j) := fun j hj => by
        rw [Nat.add_assoc]
        exact cellOf_add_ne (by omega) (by omega)
      rw [memLookup_memWrite_ne _ _ _ kept]
      exact memLookup_memStore_self _ _ _
    | succ k =>
      have later : addr + (k + 1) = addr + 1 + k := by omega
      rw [later]
      exact ih _ _ (by omega) (by simpa using h)

/-- Settles O42. -/
theorem memoryWritesTouchOnlyTheirWords : Obligations.MemoryWritesTouchOnlyTheirWords := by
  refine ⟨isBad_eq_false_iff, fun m addr ws free a => ⟨fun apart => ?_, fun hlen k w h => ?_⟩⟩
  · exact memRead_congr free a (memLookup_memWrite_ne m addr ws apart)
  · have read : memRead (memWrite m addr ws) free (addr + k) = ⟨w, parityOf w⟩ :=
      memRead_of_lookup (memLookup_memWrite m addr hlen h)
    have good := isBad_parityOf w
    rw [read]
    exact ⟨rfl, (isBad_eq_false_iff _).1 good, rfl, good⟩

end Sys2Proof.Proofs

/-! PROOFS. Ticks (section 10.1): the refresh account, the idle counts of the ports, and the parts of a tick sent alone. -/

namespace Sys2Proof.Proofs

open Sys2Proof.Machine Sys2Proof.Safety Sys2Proof.Laws

/-! ### The refresh account (R50, R52) -/

theorem interval_eq (c : Cfg) : c.interval = if bits c.refresh 0 8 = 0 then 256 else bits c.refresh 0 8 := by
  unfold Cfg.interval
  split
  next h => rw [if_pos h]
  next h => rw [if_neg h]

/-- Memory as a refresh loss leaves it (R52, R55). -/
def refreshLost (s : State) : State :=
  { s with mc := { s.mc with intervalCount := 0, memSuspect := true, lossEpisode := true, mem := [] } }

/-- A refresh loss reported (R52). -/
def lossReported (s : State) : State :=
  setSummary 0x40 (post ⟨.refreshLost, .mem, 0, .noDetail, 0⟩ (refreshLost s))

theorem riseAtInterval_eq (s : State) : riseAtInterval s =
    if s.mc.owed < 7 then { s with mc := { s.mc with intervalCount := 0, owed := s.mc.owed + 1 } }
    else if s.mc.lossEpisode then refreshLost s else lossReported s := rfl

theorem tickRefresh_eq (s : State) : tickRefresh s =
    if s.mc.state ≠ .ready then s
    else if s.mc.intervalCount + 1 < s.sc.cfg.interval then
      { s with mc := { s.mc with intervalCount := s.mc.intervalCount + 1 } }
    else riseAtInterval s := by
  unfold tickRefresh intervalReached
  by_cases ready : s.mc.state = .ready
  · rw [if_pos ready, if_neg (not_not.2 ready)]
    by_cases early : s.mc.intervalCount + 1 < s.sc.cfg.interval
    · rw [if_pos early, decide_eq_false (not_le.2 early)]
      rfl
    · rw [if_neg early, decide_eq_true (not_lt.1 early)]
      rfl
  · rw [if_neg ready, if_pos ready]

/-! ### The idle count of a port (R93, R94, R130) -/

/-- R93: the idle count runs. -/
def IdleRuns (k : PortCfg) (x : Port) : Prop :=
  (x.state = .active ∨ x.state = .closing) ∧ k.idleTicks ≠ 0 ∧ x.idleDeclared = false

/-- This tick takes the count to LINK_IDLE. -/
def IdleReached (k : PortCfg) (x : Port) : Prop := k.idleTicks ≤ x.idleCount + 1

/-- The link declared idle, with its record (R93). -/
def declaredIdle (p : PortId) (s : State) : State :=
  withPort p { s.port p with idleCount := (s.port p).idleCount + 1, idleDeclared := true }
    (post ⟨.linkIdle, .port p, (s.port p).headTag, .noDetail, (s.port p).fifo.length⟩ s)

/-- A CLOSING replay port abandoned, with its records (R94, R130). -/
def abandonedIdle (p : PortId) (s : State) : State :=
  shut p .closeIdle (s.port p).fifo.length
    (orphanFlight p (postAll (outcomes p .segShort .closeIdle .close (s.port p).queue) (declaredIdle p s)))

theorem idleRuns_iff (k : PortCfg) (x : Port) : idleRuns k x = true ↔ IdleRuns k x := by
  unfold idleRuns IdleRuns
  rw [Bool.and_eq_true, Bool.and_eq_true, Bool.or_eq_true, beq_iff_eq, beq_iff_eq, bne_iff_ne, and_assoc,
    Bool.not_eq_true']

theorem idleReached_iff (s : State) (p : PortId) :
    idleReached s p = true ↔ IdleRuns (s.pcfg p) (s.port p) ∧ IdleReached (s.pcfg p) (s.port p) := by
  unfold idleReached
  rw [Bool.and_eq_true, idleRuns_iff, decide_eq_true_eq]
  rfl

theorem declareIdle_stays {p : PortId} {s : State} (h : ¬ ((s.port p).state = .closing ∧ (s.pcfg p).dir = .replay)) :
    declareIdle p s = declaredIdle p s := if_neg h

theorem declareIdle_abandons {p : PortId} {s : State} (h : (s.port p).state = .closing ∧ (s.pcfg p).dir = .replay) :
    declareIdle p s = abandonedIdle p s := by
  have abandons : declareIdle p s = abandon p (declaredIdle p s) := if_pos h
  have declared : (declaredIdle p s).port p =
      { s.port p with idleCount := (s.port p).idleCount + 1, idleDeclared := true } := withPort_port_self _ _ _
  rw [abandons, abandon_eq, declared]
  rfl

theorem tickLinkIdle_still {p : PortId} {s : State} (h : ¬ IdleRuns (s.pcfg p) (s.port p)) : tickLinkIdle p s = s :=
  (if_neg fun e => h ((idleReached_iff s p).1 e).1).trans (if_neg (mt (idleRuns_iff _ _).1 h))

theorem tickLinkIdle_counts {p : PortId} {s : State} (h : IdleRuns (s.pcfg p) (s.port p))
    (hn : ¬ IdleReached (s.pcfg p) (s.port p)) :
    tickLinkIdle p s = withPort p { s.port p with idleCount := (s.port p).idleCount + 1 } s :=
  (if_neg fun e => hn ((idleReached_iff s p).1 e).2).trans (if_pos ((idleRuns_iff _ _).2 h))

theorem tickLinkIdle_declares {p : PortId} {s : State} (h : IdleRuns (s.pcfg p) (s.port p))
    (hr : IdleReached (s.pcfg p) (s.port p)) : tickLinkIdle p s = declareIdle p s := if_pos ((idleReached_iff s p).2 ⟨h, hr⟩)

/-- What the idle step of port p leaves as it was. -/
def IdleFrame (p : PortId) (s t : State) : Prop :=
  t.tb = s.tb ∧ t.hp = s.hp ∧ t.sc = s.sc ∧ t.ma.host = s.ma.host ∧ t.ma.grant = s.ma.grant ∧
    { t.mc with flight := s.mc.flight } = s.mc ∧
    ∀ r, r ≠ p → t.port r = s.port r ∧ t.ma.ports.get r = s.ma.ports.get r

theorem declaredIdle_frame (p : PortId) (s : State) : IdleFrame p s (declaredIdle p s) :=
  ⟨rfl, rfl, rfl, rfl, rfl, rfl, fun _ hr => ⟨withPort_port_ne _ _ hr, rfl⟩⟩

theorem abandonedIdle_frame (p : PortId) (s : State) : IdleFrame p s (abandonedIdle p s) := by
  unfold abandonedIdle
  refine ⟨?_, ?_, ?_, ?_, ?_, ?_, fun r hr => ⟨?_, ?_⟩⟩
  · rw [shut_tb, orphanFlight_tb, postAll_tb]
    rfl
  · rw [shut_hp, orphanFlight_hp, postAll_hp]
    rfl
  · rw [shut_sc, orphanFlight_sc, postAll_sc]
    rfl
  · rw [shut_ma, orphanFlight_ma, postAll_ma]
    rfl
  · rw [shut_ma, orphanFlight_ma, postAll_ma]
    rfl
  · rw [shut_mc, orphanFlight_mc, postAll_mc]
    rfl
  · rw [shut_port_ne _ _ _ hr, orphanFlight_port, postAll_port]
    exact withPort_port_ne _ _ hr
  · rw [shut_ma, orphanFlight_ma, postAll_ma]
    exact Quad.get_set_ne _ _ hr

theorem tickLinkIdle_frame (p : PortId) (s : State) : IdleFrame p s (tickLinkIdle p s) := by
  by_cases runs : IdleRuns (s.pcfg p) (s.port p)
  · by_cases reached : IdleReached (s.pcfg p) (s.port p)
    · rw [tickLinkIdle_declares runs reached]
      by_cases ends : (s.port p).state = .closing ∧ (s.pcfg p).dir = .replay
      · rw [declareIdle_abandons ends]
        exact abandonedIdle_frame p s
      · rw [declareIdle_stays ends]
        exact declaredIdle_frame p s
    · rw [tickLinkIdle_counts runs reached]
      exact ⟨rfl, rfl, rfl, rfl, rfl, rfl, fun _ hr => ⟨withPort_port_ne _ _ hr, rfl⟩⟩
  · rw [tickLinkIdle_still runs]
    exact ⟨rfl, rfl, rfl, rfl, rfl, rfl, fun _ _ => ⟨rfl, rfl⟩⟩

/-! ### The four ports in turn -/

/-- Step 3 of a tick (R176). -/
def tickPorts (s : State) : State := tickLinkIdle .p3 (tickLinkIdle .p2 (tickLinkIdle .p1 (tickLinkIdle .p0 s)))

theorem tickPorts_frame (s : State) : (tickPorts s).tb = s.tb ∧ (tickPorts s).hp = s.hp ∧ (tickPorts s).sc = s.sc ∧
    (tickPorts s).ma.host = s.ma.host ∧ (tickPorts s).ma.grant = s.ma.grant ∧
    { (tickPorts s).mc with flight := s.mc.flight } = s.mc := by
  unfold tickPorts
  have frame := tickLinkIdle_frame
  generalize tickLinkIdle = turn at frame ⊢
  obtain ⟨tb0, hp0, sc0, host0, grant0, mc0, -⟩ := frame .p0 s
  obtain ⟨tb1, hp1, sc1, host1, grant1, mc1, -⟩ := frame .p1 (turn .p0 s)
  obtain ⟨tb2, hp2, sc2, host2, grant2, mc2, -⟩ := frame .p2 (turn .p1 (turn .p0 s))
  obtain ⟨tb3, hp3, sc3, host3, grant3, mc3, -⟩ := frame .p3 (turn .p2 (turn .p1 (turn .p0 s)))
  have account {m n k : MemCtl} (h : { m with flight := n.flight } = n) (e : { n with flight := k.flight } = k) :
      { m with flight := k.flight } = k := by
    rw [← e, ← h]
  exact ⟨tb3.trans (tb2.trans (tb1.trans tb0)), hp3.trans (hp2.trans (hp1.trans hp0)), sc3.trans (sc2.trans (sc1.trans sc0)),
    host3.trans (host2.trans (host1.trans host0)), grant3.trans (grant2.trans (grant1.trans grant0)),
    account mc3 (account mc2 (account mc1 mc0))⟩

/-- Each port's turn finds it as the tick found it, and the turns after leave it. -/
theorem tickPorts_turn (s : State) (p : PortId) : ∃ u, u.port p = s.port p ∧ u.sc = s.sc ∧
    (tickPorts s).port p = (tickLinkIdle p u).port p ∧
    (tickPorts s).ma.ports.get p = (tickLinkIdle p u).ma.ports.get p := by
  unfold tickPorts
  have frame := tickLinkIdle_frame
  generalize tickLinkIdle = turn at frame ⊢
  obtain ⟨-, -, sc0, -, -, -, ports0⟩ := frame .p0 s
  obtain ⟨-, -, sc1, -, -, -, ports1⟩ := frame .p1 (turn .p0 s)
  obtain ⟨-, -, sc2, -, -, -, ports2⟩ := frame .p2 (turn .p1 (turn .p0 s))
  obtain ⟨-, -, -, -, -, -, ports3⟩ := frame .p3 (turn .p2 (turn .p1 (turn .p0 s)))
  cases p with
  | p0 =>
    refine ⟨s, rfl, rfl, ?_, ?_⟩
    · exact (ports3 .p0 nofun).1.trans ((ports2 .p0 nofun).1.trans (ports1 .p0 nofun).1)
    · exact (ports3 .p0 nofun).2.trans ((ports2 .p0 nofun).2.trans (ports1 .p0 nofun).2)
  | p1 =>
    refine ⟨turn .p0 s, (ports0 .p1 nofun).1, sc0, ?_, ?_⟩
    · exact (ports3 .p1 nofun).1.trans (ports2 .p1 nofun).1
    · exact (ports3 .p1 nofun).2.trans (ports2 .p1 nofun).2
  | p2 =>
    exact ⟨turn .p1 (turn .p0 s), (ports1 .p2 nofun).1.trans (ports0 .p2 nofun).1, sc1.trans sc0,
      (ports3 .p2 nofun).1, (ports3 .p2 nofun).2⟩
  | p3 =>
    exact ⟨turn .p2 (turn .p1 (turn .p0 s)),
      (ports2 .p3 nofun).1.trans ((ports1 .p3 nofun).1.trans (ports0 .p3 nofun).1), sc2.trans (sc1.trans sc0), rfl, rfl⟩

theorem settlePort_closed (k : PortCfg) (a : Bool) (x : Port) : settlePort k a x.closed = x.closed := by
  rw [settlePort_eq]
  have still : x.closed.releaseStop = x.closed := if_neg nofun
  rw [still, requestOf_of_not_working (.inl rfl)]
  rfl

/-! ### Parts of a tick sent alone (log entry 6) -/

/-- Settles O41. -/
theorem partsOfATickSentAlone : Obligations.PartsOfATickSentAlone := by
  refine ⟨fun s running => ?_, fun s p running => ?_⟩
  · intro interval due lost told
    have rise : exec .owedRise s = .next (settle
        (if s.mc.state = .ready ∧ intervalReached s = true then riseAtInterval s else s)) := event_running running _
    have test : (s.mc.state = .ready ∧ intervalReached s = true) ↔ due := by
      unfold intervalReached
      rw [decide_eq_true_eq, interval_eq]
    have reached (h : due) : exec .owedRise s = .next (settle (riseAtInterval s)) := rise.trans (by rw [if_pos (test.2 h)])
    refine ⟨fun h => rise.trans (by rw [if_neg (mt test.1 h)]), fun h low => ?_, fun h high episode => ?_,
      fun h high first => ?_, event_running running id⟩
    · rw [reached h, riseAtInterval_eq, if_pos low]
    · rw [reached h, riseAtInterval_eq, if_neg (not_lt.2 high), if_pos episode]
      rfl
    · rw [reached h, riseAtInterval_eq, if_neg (not_lt.2 high), if_neg (Bool.eq_false_iff.1 first)]
      rfl
  · intro x k due tag declared
    have idle : exec (.linkIdle p) s = .next (settle (if idleReached s p then declareIdle p s else s)) :=
      event_running running fun s => if idleReached s p then declareIdle p s else s
    have test : idleReached s p = true ↔ due := by
      rw [idleReached_iff]
      unfold IdleRuns IdleReached
      rw [and_assoc, and_assoc]
    refine ⟨fun h => idle.trans (by rw [if_neg (mt test.1 h)]), fun h stays => ?_, fun h closing replay => ?_⟩
    · rw [idle, if_pos (test.2 h), declareIdle_stays stays]
      rfl
    · rw [idle, if_pos (test.2 h), declareIdle_abandons ⟨closing, replay⟩]
      rfl

/-! ### The whole tick (R176) -/

theorem tickRefresh_frame (s : State) : (tickRefresh s).tb = s.tb ∧ (tickRefresh s).hp = s.hp ∧ (tickRefresh s).sc = s.sc ∧
    (tickRefresh s).ma = s.ma ∧ (tickRefresh s).ports = s.ports ∧ (tickRefresh s).mc.state = s.mc.state ∧
    (tickRefresh s).mc.init = s.mc.init ∧ (tickRefresh s).mc.sleepRequest = s.mc.sleepRequest := by
  rw [tickRefresh_eq, riseAtInterval_eq]
  split_ifs <;> exact ⟨rfl, rfl, rfl, rfl, rfl, rfl, rfl, rfl⟩

/-- The refresh account, as a tick finds and leaves it. -/
def refreshAccount (m : MemCtl) : Nat × Nat × Bool × Bool × Memory :=
  (m.owed, m.intervalCount, m.lossEpisode, m.memSuspect, m.mem)

theorem tickRefresh_account (s : State) :
    (s.mc.state ≠ .ready → refreshAccount (tickRefresh s).mc = refreshAccount s.mc) ∧
    (s.mc.state = .ready → s.mc.intervalCount + 1 < s.sc.cfg.interval → refreshAccount (tickRefresh s).mc =
      (s.mc.owed, s.mc.intervalCount + 1, s.mc.lossEpisode, s.mc.memSuspect, s.mc.mem)) ∧
    (s.mc.state = .ready → s.sc.cfg.interval ≤ s.mc.intervalCount + 1 → s.mc.owed < 7 → refreshAccount (tickRefresh s).mc =
      (s.mc.owed + 1, 0, s.mc.lossEpisode, s.mc.memSuspect, s.mc.mem)) ∧
    (s.mc.state = .ready → s.sc.cfg.interval ≤ s.mc.intervalCount + 1 → 7 ≤ s.mc.owed → refreshAccount (tickRefresh s).mc =
      (s.mc.owed, 0, true, true, [])) := by
  rw [tickRefresh_eq]
  refine ⟨fun h => by rw [if_pos h], fun h early => ?_, fun h late low => ?_, fun h late high => ?_⟩
  · rw [if_neg (not_not.2 h), if_pos early]
    rfl
  · rw [if_neg (not_not.2 h), if_neg (not_lt.2 late), riseAtInterval_eq, if_pos low]
    rfl
  · rw [if_neg (not_not.2 h), if_neg (not_lt.2 late), riseAtInterval_eq, if_neg (not_lt.2 high)]
    split_ifs <;> rfl

theorem tickLinkIdle_eq (p : PortId) (s : State) : tickLinkIdle p s =
    if ¬ ((s.port p).state = .active ∨ (s.port p).state = .closing) ∨ (s.pcfg p).idleTicks = 0 ∨
      (s.port p).idleDeclared = true then s
    else if (s.port p).idleCount + 1 < (s.pcfg p).idleTicks then
      withPort p { s.port p with idleCount := (s.port p).idleCount + 1 } s
    else if (s.port p).state = .closing ∧ (s.pcfg p).dir = .replay then abandonedIdle p s else declaredIdle p s := by
  by_cases runs : IdleRuns (s.pcfg p) (s.port p)
  · have acts : ¬ (¬ ((s.port p).state = .active ∨ (s.port p).state = .closing) ∨ (s.pcfg p).idleTicks = 0 ∨
        (s.port p).idleDeclared = true) := by
      obtain ⟨working, limit, silent⟩ := runs
      simp [working, limit, silent]
    rw [if_neg acts]
    by_cases early : (s.port p).idleCount + 1 < (s.pcfg p).idleTicks
    · rw [if_pos early, tickLinkIdle_counts runs (not_le.2 early)]
    · rw [if_neg early, tickLinkIdle_declares runs (not_lt.1 early)]
      by_cases ends : (s.port p).state = .closing ∧ (s.pcfg p).dir = .replay
      · rw [if_pos ends, declareIdle_abandons ends]
      · rw [if_neg ends, declareIdle_stays ends]
  · have still : ¬ ((s.port p).state = .active ∨ (s.port p).state = .closing) ∨ (s.pcfg p).idleTicks = 0 ∨
        (s.port p).idleDeclared = true := by
      by_contra none
      obtain ⟨working, none⟩ := not_or.1 none
      obtain ⟨limit, silent⟩ := not_or.1 none
      exact runs ⟨not_not.1 working, limit, Bool.eq_false_iff.2 silent⟩
    rw [if_pos still, tickLinkIdle_still runs]

/-- The idle step on the fields of port p that settling leaves. -/
theorem tickLinkIdle_port (p : PortId) (s : State) :
    (¬ IdleRuns (s.pcfg p) (s.port p) → (tickLinkIdle p s).port p = s.port p) ∧
    (IdleRuns (s.pcfg p) (s.port p) → ¬ IdleReached (s.pcfg p) (s.port p) →
      (tickLinkIdle p s).port p = { s.port p with idleCount := (s.port p).idleCount + 1 }) ∧
    (IdleRuns (s.pcfg p) (s.port p) → IdleReached (s.pcfg p) (s.port p) →
      ¬ ((s.port p).state = .closing ∧ (s.pcfg p).dir = .replay) →
      (tickLinkIdle p s).port p = { s.port p with idleCount := (s.port p).idleCount + 1, idleDeclared := true }) ∧
    (IdleRuns (s.pcfg p) (s.port p) → IdleReached (s.pcfg p) (s.port p) →
      (s.port p).state = .closing ∧ (s.pcfg p).dir = .replay →
      (tickLinkIdle p s).port p = (s.port p).closed ∧ (tickLinkIdle p s).ma.ports.get p = .opened) := by
  refine ⟨fun h => by rw [tickLinkIdle_still h], fun h hn => ?_, fun h hr stays => ?_, fun h hr ends => ?_⟩
  · rw [tickLinkIdle_counts h hn, withPort_port_self]
  · rw [tickLinkIdle_declares h hr, declareIdle_stays stays]
    exact withPort_port_self _ _ _
  · have declared : (declaredIdle p s).port p =
        { s.port p with idleCount := (s.port p).idleCount + 1, idleDeclared := true } := withPort_port_self _ _ _
    rw [tickLinkIdle_declares h hr, declareIdle_abandons ends]
    unfold abandonedIdle
    refine ⟨?_, ?_⟩
    · rw [shut_port_self, orphanFlight_port, postAll_port, declared]
      rfl
    · rw [shut_ma]
      exact Quad.get_set_self _ _ _

/-- Settles O40: the steps in order, and what each leaves. -/
theorem tickStepsInOrder : Obligations.TickStepsInOrder := by
  intro s running
  have run : exec .tick s = .next (settle (tickPorts (tickRefresh (tickCount s)))) := event_running running tickSteps
  obtain ⟨tb, hp, sc, ma, ports, state, init, sleep⟩ := tickRefresh_frame (tickCount s)
  obtain ⟨off, early, rises, loses⟩ := tickRefresh_account (tickCount s)
  have refreshes := tickRefresh_eq (tickCount s)
  generalize tickRefresh (tickCount s) = u at run tb hp sc ma ports state init sleep off early rises loses refreshes
  obtain ⟨tb', hp', sc', host', grant', mc'⟩ := tickPorts_frame u
  have turns := tickPorts_turn u
  have steps : tickPorts u = tickLinkIdle .p3 (tickLinkIdle .p2 (tickLinkIdle .p1 (tickLinkIdle .p0 u))) := rfl
  generalize tickPorts u = v at run tb' hp' sc' host' grant' mc' turns steps
  have kept {α : Type} (f : MemCtl → α) (hf : ∀ m fl, f { m with flight := fl } = f m) : f v.mc = f u.mc :=
    (hf _ _).symm.trans (congrArg f mc')
  have account := kept refreshAccount fun _ _ => rfl
  have interval : (tickCount s).sc.cfg.interval = _ := interval_eq s.sc.cfg
  rw [interval] at early rises loses refreshes
  refine ⟨settle v, run, ?_, tb'.trans tb, hp'.trans hp, sc'.trans sc,
    (kept MemCtl.state fun _ _ => rfl).trans state, (kept MemCtl.init fun _ _ => rfl).trans init,
    (kept MemCtl.sleepRequest fun _ _ => rfl).trans sleep, host'.trans (congrArg Arbiter.host ma),
    grant'.trans (congrArg Arbiter.grant ma), ?_, fun p => ?_⟩
  · intro interval counted refreshed idled
    have refreshed' : u = refreshed counted := by
      rw [refreshes, riseAtInterval_eq]
      rfl
    have idles (p : PortId) (u : State) : tickLinkIdle p u = idled p u := tickLinkIdle_eq p u
    rw [steps, idles, idles, idles, idles, ← refreshed']
  · exact ⟨fun h => account.trans (off h), fun h hi => account.trans (early h hi),
      fun h hi low => account.trans (rises h hi low), fun h hi high => account.trans (loses h hi high)⟩
  · intro x k runs reached y
    obtain ⟨w, port, setup, turn, fairness⟩ := turns p
    have before : w.port p = x := port.trans (congrArg (fun q => Quad.get q p) ports)
    have cfg : w.pcfg p = k := congrArg (fun c : Setup => c.cfg.ports.get p) (setup.trans sc)
    obtain ⟨still, counts, declares, ends⟩ := tickLinkIdle_port p w
    rw [before, cfg] at still counts declares ends
    have after : (settle v).port p = settlePort (v.pcfg p) (abortWaits v p) ((tickLinkIdle p w).port p) := by
      rw [settle_port, turn]
    have settled : y = { (tickLinkIdle p w).port p with request := x.request, stopBlock := x.stopBlock } := by
      have fields : y = { (settle v).port p with request := x.request, stopBlock := x.stopBlock } := rfl
      rw [fields, after, settlePort_eq]
    refine ⟨fun h => ?_, fun h hn => ?_, fun h hr stays => ?_, fun h hr closing replay => ?_⟩
    · rw [settled, still h]
    · rw [settled, counts h hn]
    · rw [settled, declares h hr stays]
    · obtain ⟨closed, opened⟩ := ends h hr ⟨closing, replay⟩
      exact ⟨by rw [after, closed, settlePort_closed]; rfl, fairness.trans opened⟩

end Sys2Proof.Proofs

/-! PROOFS. Transaction completions (R49): the bursts of the ports, the window, REFRESH and init steps, and the chunks of
the memory commands. -/

namespace Sys2Proof.Proofs

open Sys2Proof.Machine Sys2Proof.Safety Sys2Proof.Laws

/-! ### What the controller's step leaves (R49, step 1) -/

theorem freed_hp (s : State) : (freed s).hp = s.hp := by
  unfold freed
  split <;> rfl

theorem freed_sc (s : State) : (freed s).sc = s.sc := by
  unfold freed
  split <;> rfl

theorem freed_ports (s : State) : (freed s).ports = s.ports := by
  unfold freed
  split <;> rfl

theorem freed_port (s : State) (p : PortId) : (freed s).port p = s.port p := congrArg (Quad.get · p) (freed_ports s)

theorem freed_pcfg (s : State) (p : PortId) : (freed s).pcfg p = s.pcfg p :=
  congrArg (fun c : Setup => c.cfg.ports.get p) (freed_sc s)

theorem freed_freeIndex (s : State) : (freed s).freeIndex = s.freeIndex := by
  unfold freed
  split <;> rfl

theorem freed_mem (s : State) : (freed s).mc.mem = s.mc.mem := by
  unfold freed
  split <;> rfl

theorem freed_state (s : State) : (freed s).mc.state = s.mc.state := by
  unfold freed
  split <;> rfl

theorem freed_of_idle {s : State} (h : s.mc.init = .idle) : freed s = { s with mc := { s.mc with flight := none } } :=
  if_neg (by rw [h]; nofun)

theorem freed_of_awaiting {s : State} (h : s.mc.init = .awaiting) : freed s = { s with mc := { s.mc with
    init := .step (max 2 (bits s.sc.cfg.memGeom 4 4)) (flag s.sc.cfg.memGeom 8) 0
    flight := some { kind := .prechargeAll, who := .controller } } } := if_pos h

/-- A completion row whose transaction is in flight, with no abort waiting for it and no soft reset pending: the
controller is freed, the requester's processing follows, the grant is closed. -/
theorem completion_plain {s t : State} {f : Flight} {row : Flight → Bool} {handle : Flight → State → State}
    (h : Listening s) (hf : s.mc.flight = some f) (hr : row f = true) (ht : handle f (freed s) = t)
    (ha : abortAwaits t f.who = none) (hsc : t.sc = s.sc) :
    event (complete row handle) s = .next (settle (closeGrant t)) := by
  rw [event_running h.1, complete_of_flight hf hr, endFlight_eq_freed, ht,
    afterCompletion_plain ha ((congrArg Setup.resetPending hsc).trans h.2)]

theorem portBurst_true {f : Flight} {p : PortId} (hw : f.who = .port p) {k : Kind} (hk : f.kind = k) :
    portBurst k f = true := by
  unfold portBurst
  rw [hw, hk]
  exact Bool.and_eq_true_iff.2 ⟨beq_self_eq_true _, rfl⟩

theorem hostBurst_true {f : Flight} (hw : f.who = .host) {k : Kind} (hk : f.kind = k) : hostBurst k f = true := by
  unfold hostBurst
  rw [hw, hk, beq_self_eq_true]
  rfl

theorem abortAwaits_port {s : State} {p : PortId} (h : s.hp.seq.running ≠ some (.portAbort p)) :
    abortAwaits s (.port p) = none := if_neg (mt (abortWaits_iff s p).1 h)

theorem abortAwaits_waiting {s : State} {p : PortId} (h : s.hp.seq.running = some (.portAbort p)) :
    abortAwaits s (.port p) = some p := if_pos ((abortWaits_iff s p).2 h)

/-! ### Capture bursts (R103 to R106, R114) -/

theorem capturedBurst_work {p : PortId} {f : Flight} (s : State) (hw : f.who = .port p) :
    PortWork p s (capturedBurst p f s) := by
  rw [← captureCompletion_eq_capturedBurst s hw]
  exact (PortWork.refl p s).captureCompletion hw

/-- The completion of a port's WRITE_BURST that no abort waits for. -/
theorem exec_writeBurst {s : State} {f : Flight} {p : PortId} (h : Listening s) (hf : s.mc.flight = some f)
    (hk : f.kind = .writeBurst) (hw : f.who = .port p) (ha : s.hp.seq.running ≠ some (.portAbort p)) :
    exec .writeBurstCompletion s = .next (settle (closeGrant (capturedBurst p f (freed s)))) := by
  have work := capturedBurst_work (freed s) hw
  have running : (capturedBurst p f (freed s)).hp = s.hp := work.hostPort.trans (freed_hp s)
  refine completion_plain h hf (portBurst_true hw hk) (captureCompletion_eq_capturedBurst _ hw) ?_
    (work.setup.trans (freed_sc s))
  rw [hw]
  exact abortAwaits_port (by rw [running]; exact ha)

theorem capturedBurst_orphan {p : PortId} {f : Flight} (s : State) (ho : f.orphan = true) :
    capturedBurst p f s = { s with mc := { s.mc with mem := memWrite s.mc.mem f.addr (f.words.map (·.word)) } } := if_pos ho

/-- The capture steps of a completion for a head `h`, with the GUARD record told or not (R106). -/
theorem capturedBurst_of_head {p : PortId} {f : Flight} {s : State} {h : QEntry} {t : List QEntry}
    (ho : f.orphan = false) (hq : (s.port p).queue = h :: t) :
    let x := { s.port p with queue := { h with progress := h.progress + f.count } :: t }
    let written := withPort p (x.logMarks h.desc.tag h.progress f.addr f.words)
      { s with mc := { s.mc with mem := memWrite s.mc.mem f.addr (f.words.map (·.word)) } }
    let split := h.desc.last = true ∧ ∃ w, f.words.getLast? = some w ∧ w.mark = true
    ∃ told, (∀ g, h.desc.guard = some g → h.progress ≤ g ∧ g < h.progress + f.count →
        told = post ⟨.guard, .port p, h.desc.tag, .noDetail, g⟩ written) ∧
      ((∀ g, h.desc.guard = some g → ¬ (h.progress ≤ g ∧ g < h.progress + f.count)) → told = written) ∧
      (split → capturedBurst p f s = drainOver p (doneHead p .markEnd told)) ∧
      (¬ split → h.progress + f.count = h.desc.length → capturedBurst p f s = drainOver p (doneHead p .noDetail told)) ∧
      (¬ split → h.progress + f.count ≠ h.desc.length → capturedBurst p f s = drainOver p told) := by
  intro x written split
  have ends : (h.desc.last = true ∧ f.words.getLast?.map (·.mark) = some true) ↔ split := by
    simp only [split, Option.map_eq_some_iff]
  obtain ⟨told, guards, none, steps⟩ : ∃ told,
      (∀ g, h.desc.guard = some g → h.progress ≤ g ∧ g < h.progress + f.count →
        told = post ⟨.guard, .port p, h.desc.tag, .noDetail, g⟩ written) ∧
      ((∀ g, h.desc.guard = some g → ¬ (h.progress ≤ g ∧ g < h.progress + f.count)) → told = written) ∧
      capturedBurst p f s = drainOver p
        (if h.desc.last = true ∧ f.words.getLast?.map (·.mark) = some true then doneHead p .markEnd told
        else if h.progress + f.count = h.desc.length then doneHead p .noDetail told
        else told) := by
    unfold capturedBurst
    rw [if_neg (Bool.eq_false_iff.1 ho), hq]
    dsimp only
    cases hg : h.desc.guard with
    | none => exact ⟨written, nofun, fun _ => rfl, rfl⟩
    | some g =>
      by_cases passed : h.progress ≤ g ∧ g < h.progress + f.count
      · refine ⟨post ⟨.guard, .port p, h.desc.tag, .noDetail, g⟩ written, fun g' e _ => ?_, fun e => absurd passed (e g rfl), ?_⟩
        · rw [Option.some.inj e]
        · dsimp only
          rw [if_pos passed]
      · refine ⟨written, fun g' e hp => ?_, fun _ => rfl, ?_⟩
        · exact absurd (Option.some.inj e ▸ hp) passed
        · dsimp only
          rw [if_neg passed]
  refine ⟨told, guards, none, fun hs => ?_, fun hs hl => ?_, fun hs hl => ?_⟩
  · rw [steps, if_pos (ends.2 hs)]
  · rw [steps, if_neg (mt ends.1 hs), if_pos hl]
  · rw [steps, if_neg (mt ends.1 hs), if_neg hl]

/-- Settles O43. -/
theorem writeBurstCompletion : Obligations.WriteBurstCompletion := by
  intro s f p h t listens hf hk hw ho ha _ hq n x free written guarded split
  have runs := exec_writeBurst listens hf hk hw ha
  obtain ⟨told, guards, none, splits, ends, goes⟩ := capturedBurst_of_head (s := freed s) ho ((congrArg Port.queue (freed_port s p)).trans hq)
  rw [freed_port, freed_mem] at guards none
  exact ⟨told, guards, none, fun hs => runs.trans (by rw [splits hs]), fun hs hl => runs.trans (by rw [ends hs hl]),
    fun hs hl => runs.trans (by rw [goes hs hl])⟩

/-! ### Replay bursts (R110, R111, R114) -/

theorem replayedBurst_work {p : PortId} {f : Flight} {s : State} (hw : f.who = .port p)
    (hs : f.orphan = true ∨ (s.port p).state = .active ∨ (s.port p).state = .closing) :
    PortWork p s (replayedBurst p f s) := by
  rw [← replayCompletion_eq_replayedBurst hw hs]
  exact (PortWork.refl p s).replayCompletion hw

/-- The completion of a port's READ_BURST that no abort waits for. -/
theorem exec_readBurst {s : State} {f : Flight} {p : PortId} (h : Listening s) (hf : s.mc.flight = some f)
    (hk : f.kind = .readBurst) (hw : f.who = .port p) (ha : s.hp.seq.running ≠ some (.portAbort p))
    (hs : f.orphan = true ∨ (s.port p).state = .active ∨ (s.port p).state = .closing) :
    exec .readBurstCompletion s = .next (settle (closeGrant (replayedBurst p f (freed s)))) := by
  have same := replayCompletion_eq_replayedBurst (t := freed s) hw (by rw [freed_port]; exact hs)
  have work : PortWork p (freed s) (replayedBurst p f (freed s)) := replayedBurst_work hw (by rw [freed_port]; exact hs)
  have running : (replayedBurst p f (freed s)).hp = s.hp := work.hostPort.trans (freed_hp s)
  refine completion_plain h hf (portBurst_true hw hk) same ?_ (work.setup.trans (freed_sc s))
  rw [hw]
  exact abortAwaits_port (by rw [running]; exact ha)

/-- Settles O44. -/
theorem orphanCompletions : Obligations.OrphanCompletions := by
  intro s f p listens hf hw ho ha free
  refine ⟨fun hk => ?_, fun hk => ?_⟩
  · rw [exec_writeBurst listens hf hk hw ha, capturedBurst_orphan _ ho, freed_mem]
  · have dropped : replayedBurst p f (freed s) =
        withPort p { (freed s).port p with reservation := 0 } { freed s with freeIndex := (freed s).freeIndex + f.count } :=
      if_pos ho
    rw [exec_readBurst listens hf hk hw ha (.inl ho), dropped, freed_port, freed_freeIndex]
    rfl

theorem faultState_state (p : PortId) (c : Detail) (s : State) : ((faultState p c s).port p).state = .faulted :=
  congrArg Port.state (Quad.get_set_self _ _ _)

/-- Settles O45. -/
theorem readBurstCompletion : Obligations.ReadBurstCompletion := by
  intro s f p listens hf hk hw ho ha hs ws bad tag placed told
  rw [exec_readBurst listens hf hk hw ha (.inr hs)]
  have steps : replayedBurst p f (freed s) = drainOver p
      (if bad = 0 then placed else if (s.pcfg p).parityFault then faultState p .parity told else told) := by
    unfold replayedBurst
    rw [if_neg (Bool.eq_false_iff.1 ho), freed_mem, freed_freeIndex, freed_port, freed_pcfg] <;> rfl
  rw [steps]
  refine ⟨fun good => by rw [if_pos good], fun some' keeps => ?_, fun some' faults => ?_⟩
  · rw [if_neg some', if_neg (Bool.eq_false_iff.1 keeps)]
  · have faulted : ((faultState p .parity told).port p).state ≠ .closing := by
      rw [faultState_state]
      nofun
    rw [if_neg some', if_pos faults, drainOver_of_not_closing faulted]

/-! ### The window (R13, R15) -/

theorem wordReadCompletion_taken {f : Flight} (ho : f.orphan = false) (s : State) : wordReadCompletion f s = { s with
    freeIndex := s.freeIndex + 1
    hp := { s.hp with win := { s.hp.win with
      latch := .ready (memRead s.mc.mem s.freeIndex f.addr).data
      errors := if isBad (memRead s.mc.mem s.freeIndex f.addr) then s.hp.win.errors ||| 0x10 else s.hp.win.errors } } } := by
  unfold wordReadCompletion
  dsimp only
  rw [if_neg (Bool.eq_false_iff.1 ho)]
  split_ifs <;> rfl

/-- Settles O46. -/
theorem windowCompletions : Obligations.WindowCompletions := by
  intro s f listens hf hw free read
  have noAbort (t : State) : abortAwaits t f.who = none := by rw [hw]; rfl
  refine ⟨fun hk ho => ?_, fun hk ho => ?_, fun hk => ?_⟩
  · have taken : wordReadCompletion f (freed s) = { free with
        freeIndex := s.freeIndex + 1
        hp := { s.hp with win := { s.hp.win with
          latch := .ready read.data
          errors := if isBad read then s.hp.win.errors ||| 0x10 else s.hp.win.errors } } } := by
      rw [wordReadCompletion_taken ho, freed_mem, freed_freeIndex, freed_hp]
    exact completion_plain listens hf (hostBurst_true hw hk) taken (noAbort _) (freed_sc s)
  · have dropped : wordReadCompletion f (freed s) = { free with freeIndex := s.freeIndex + 1 } := by
      unfold wordReadCompletion
      rw [if_pos ho, ← freed_freeIndex]
      rfl
    exact completion_plain listens hf (hostBurst_true hw hk) dropped (noAbort _) (freed_sc s)
  · have written : wordWriteCompletion f (freed s) = { free with
        mc := { free.mc with mem := memWrite s.mc.mem f.addr (f.words.map (·.word)) }
        hp := { s.hp with win := { s.hp.win with wbuf := none } } } := by
      rw [← freed_mem s, ← freed_hp s]
      rfl
    exact completion_plain listens hf (hostBurst_true hw hk) written (noAbort _) (freed_sc s)

/-! ### REFRESH and init steps (R45, R46, R49, R51, R52) -/

theorem refreshRow_true {f : Flight} (hw : f.who = .refresh) : (f.who == .refresh) = true := beq_iff_eq.2 hw

/-- An init step that completes, a deferred soft reset being the last step (R45, R178). -/
theorem exec_initStep {s : State} {f : Flight} (h : s.held = none) (hf : s.mc.flight = some f) (hw : f.who = .controller) :
    exec .initStepCompletion s = .next (settle (deferredReset (initStep s))) := by
  have runs : exec .initStepCompletion s = execInitStepCompletion s := rfl
  rw [runs, execInitStepCompletion, event_running h, hf]
  dsimp only
  rw [if_pos (beq_iff_eq.2 hw)]

theorem deferredReset_none {s : State} (h : s.sc.resetPending = false) : deferredReset s = s :=
  if_neg (Bool.eq_false_iff.1 h)

/-- The init step after step k, in MEM_GEOM's order (R45). -/
theorem initFlight_succ (modeFirst : Bool) (n k : Nat) : initFlight modeFirst n (k + 1) =
    { kind := if (modeFirst = true ∧ k = 0) ∨ (modeFirst = false ∧ k = n) then .modeLoad else .initRefresh
      who := .controller } := by
  unfold initFlight
  rw [if_neg (Nat.succ_ne_zero k)]
  cases modeFirst
  · simp
  · simp

/-- Settles O47. -/
theorem refreshAndInitSteps : Obligations.RefreshAndInitSteps := by
  intro s listens
  refine ⟨fun f hf hw hi hs => ?_, fun f hf hw hi hs => ?_, fun n modeFirst k f hf hw hi => ⟨fun hk => ?_, fun hk => ?_⟩⟩
  · have paid : refreshCompletion f (freed s) = { s with mc := { s.mc with
        flight := none
        owed := s.mc.owed - 1
        lossEpisode := s.mc.lossEpisode && decide (7 ≤ s.mc.owed - 1) } } := by
      rw [freed_of_idle hi]
      exact if_pos hs
    exact completion_plain listens hf (refreshRow_true hw) paid (by rw [hw]; rfl) rfl
  · have left : refreshCompletion f (freed s) = { s with mc := { s.mc with
        init := .step (max 2 (bits s.sc.cfg.memGeom 4 4)) (flag s.sc.cfg.memGeom 8) 0
        flight := some { kind := .prechargeAll, who := .controller } } } := by
      rw [freed_of_awaiting hi]
      exact if_neg (by rw [hs]; nofun)
    exact completion_plain listens hf (refreshRow_true hw) left (by rw [hw]; rfl) rfl
  · have next : initStep s = { s with mc := { s.mc with
        init := .step n modeFirst (k + 1)
        flight := some (initFlight modeFirst n (k + 1)) } } := by
      unfold initStep
      rw [hi]
      exact if_pos (Nat.lt_succ_of_le hk)
    rw [exec_initStep listens.1 hf hw, next, deferredReset_none (by exact listens.2), initFlight_succ]
  · intro told
    have last : initStep s = setSummary 0x40 told := by
      unfold initStep
      rw [hi]
      exact if_neg (by omega)
    rw [exec_initStep listens.1 hf hw, last, deferredReset_none (by exact listens.2)]
    rfl

/-! ### Memory command chunks (R171 to R173) -/

/-- What follows a chunk of a running command, by the tests of R171 in order. -/
theorem chunkEnd_busy {c : Running} {j : Job} {s : State} {m : McState} (hj : jobOf (busy c s) = some j)
    (hm : s.mc.state = m) : chunkEnd (busy c s) =
    (if j.cancel then some .cancelled
      else if m ≠ .ready then some .notAwake
      else if j.count ≤ j.covered then some .ok
      else none : Option Result).elim (busy c s) fun r => ended r (memCommandRes c) s := by
  unfold chunkEnd
  rw [hj]
  have state : (busy c s).mc.state = m := hm
  dsimp only
  rw [state]
  split_ifs <;> rfl

theorem crcOver_cons (w : Word) (ws : List Word) (crc : Word) : crcOver (w :: ws) crc = crcOver ws (crcWord crc w) := by
  unfold crcOver crcWord
  rw [List.flatMap_cons, List.foldl_append, crcBits_eq_foldl]

/-- The CRC and the saturating count of bad words over the words a chunk has read (R172). -/
theorem crcWords_eq (ms : List MemWord) (crc : Word) {errors : Nat} (h : errors ≤ 65535) :
    crcWords ms (crc, errors) = (crcOver (ms.map (·.data)) crc, min 65535 (errors + ms.countP isBad)) := by
  induction ms generalizing crc errors with
  | nil => simp [crcWords, crcOver, h]
  | cons m ms ih =>
    rw [crcWords, List.map_cons, crcOver_cons, List.countP_cons]
    by_cases hb : isBad m = true
    · have bound : saturate 65535 errors ≤ 65535 := by
        unfold saturate
        split <;> omega
      rw [if_pos hb, if_pos hb, ih _ bound]
      congr 1
      unfold saturate
      split <;> omega
    · rw [if_neg hb, if_neg hb, ih _ h, Nat.add_zero]

/-- Settles O48. -/
theorem memoryCommandChunks : Obligations.MemoryCommandChunks := by
  intro s f j listens hf hw free n job result
  have noAbort (t : State) : abortAwaits t f.who = none := by rw [hw]; rfl
  have state : free.mc.state = s.mc.state := freed_state s
  have kept (o : Option Result) (c : Running) (t : State) (q : Words4) (ht : t.sc = s.sc) :
      (o.elim (busy c t) fun r => ended r q t).sc = s.sc := by cases o <;> exact ht
  have shown (o : Option Result) (c : Running) (t : State) (q : Words4) :
      (Host.Outcome.next (settle (closeGrant (o.elim (busy c t) fun r => ended r q t))) : Host.Outcome State Fault Refusal) =
        .next (settle (closeGrant (match o with
          | some r => ended r q t
          | none => busy c t))) := by cases o <;> rfl
  refine ⟨fun pattern hk hr => ?_, fun crc errors hk hr he => ?_⟩
  · intro filled res
    have running : (freed s).hp.seq.running = some (.memFill j pattern) := by rw [freed_hp, hr]
    have stored : writeMemory f.addr (f.words.map (·.word)) (freed s) = filled :=
      congrArg (fun m => { freed s with mc := { (freed s).mc with mem := memWrite m f.addr (f.words.map FifoWord.word) } })
        (freed_mem s)
    have covered : fillCompletion f (freed s) = chunkEnd (busy (.memFill job pattern) filled) := by
      unfold fillCompletion
      rw [running]
      dsimp only
      rw [stored]
      rfl
    have ends := chunkEnd_busy (c := .memFill job pattern) (s := filled) rfl state
    exact (completion_plain listens hf (hostBurst_true hw hk) (covered.trans ends) (noAbort _)
      (kept _ _ _ _ (freed_sc s))).trans (shown result _ _ _)
  · intro ws sum bad read res
    have running : (freed s).hp.seq.running = some (.regionCrc j crc errors) := by rw [freed_hp, hr]
    have counted : countReads f.count (freed s) = read :=
      congrArg (fun n => { freed s with freeIndex := n + f.count }) (freed_freeIndex s)
    have covered : crcCompletion f (freed s) = chunkEnd (busy (.regionCrc job sum bad) read) := by
      unfold crcCompletion
      rw [running]
      dsimp only
      rw [crcWords_eq _ _ he, freed_mem, counted, freed_freeIndex]
      rfl
    have ends := chunkEnd_busy (c := .regionCrc job sum bad) (s := read) rfl state
    exact (completion_plain listens hf (hostBurst_true hw hk) (covered.trans ends) (noAbort _)
      (kept _ _ _ _ (freed_sc s))).trans (shown result _ _ _)

end Sys2Proof.Proofs

/-! PROOFS. Waiting aborts, rows with nothing due, and soft resets: at once, deferred to a completion, and sent alone. -/

namespace Sys2Proof.Proofs

open Sys2Proof.Machine Sys2Proof.Safety Sys2Proof.Laws

/-! ### The completion a PORT_ABORT waits for (R133, R134, R186) -/

/-- A completion whose transaction a PORT_ABORT waits for: the port's processing, the abort, the grant, the command. -/
theorem completion_abort {s t : State} {f : Flight} {p : PortId} {row : Flight → Bool} {handle : Flight → State → State}
    (h : Listening s) (hf : s.mc.flight = some f) (hr : row f = true) (ht : handle f (freed s) = t) (hw : f.who = .port p)
    (ha : s.hp.seq.running = some (.portAbort p)) (work : PortWork p (freed s) t) :
    event (complete row handle) s = .next (settle (ended .ok {} (closeGrant (abortPort p t)))) := by
  have waits : abortAwaits t f.who = some p := by
    rw [hw]
    exact abortAwaits_waiting (by rw [work.hostPort, freed_hp]; exact ha)
  have setup : (abortPort p t).sc = s.sc :=
    ((PortWork.refl p t).abortPort.setup.trans work.setup).trans (freed_sc s)
  rw [event_running h.1, complete_of_flight hf hr, endFlight_eq_freed, ht,
    afterCompletion_abort waits ((congrArg Setup.resetPending setup).trans h.2)]

/-! ### Rows with nothing due (log entries 5 and 10) -/

theorem complete_of_not {s : State} {row : Flight → Bool} (h : ∀ f, s.mc.flight = some f → ¬ row f = true)
    (handle : Flight → State → State) : complete row handle s = s := by
  unfold complete
  split
  next f hf => exact if_neg (h f hf)
  next => rfl

theorem portBurst_iff (k : Kind) (f : Flight) : portBurst k f = true ↔ f.kind = k ∧ ∃ p, f.who = .port p := by
  unfold portBurst
  cases f.who <;> simp

theorem hostBurst_iff (k : Kind) (f : Flight) : hostBurst k f = true ↔ f.kind = k ∧ f.who = .host := by
  unfold hostBurst
  rw [Bool.and_eq_true, beq_iff_eq, beq_iff_eq]

/-- A completion row whose transaction is not in flight does nothing. -/
theorem completion_idle {c : Instr} {s : State} (running : s.held = none) (hc : c ∈ completionRows)
    (none : ∀ f, s.mc.flight = some f → ¬ Completes c f) : exec c s = .next (settle s) := by
  have idle {row : Flight → Bool} (handle : Flight → State → State) (h : ∀ f, row f = true → Completes c f) :
      event (complete row handle) s = .next (settle s) := by
    rw [event_running running, complete_of_not fun f hf hr => none f hf (h f hr)]
  simp only [completionRows, List.mem_cons, List.not_mem_nil, or_false] at hc
  rcases hc with rfl | rfl | rfl | rfl | rfl | rfl | rfl | rfl
  · exact idle _ fun f hr => .inl ⟨rfl, (portBurst_iff _ f).1 hr⟩
  · exact idle _ fun f hr => .inr (.inl ⟨rfl, (portBurst_iff _ f).1 hr⟩)
  · exact idle _ fun f hr => .inr (.inr (.inl ⟨rfl, (hostBurst_iff _ f).1 hr⟩))
  · exact idle _ fun f hr => .inr (.inr (.inr (.inl ⟨rfl, (hostBurst_iff _ f).1 hr⟩)))
  · exact idle _ fun f hr => .inr (.inr (.inr (.inr (.inr (.inr (.inl ⟨rfl, beq_iff_eq.1 hr⟩))))))
  · have runs : exec .initStepCompletion s = execInitStepCompletion s := rfl
    rw [runs, execInitStepCompletion, event_running running]
    split
    next f hf =>
      have other : ¬ (f.who == .controller) = true := fun e =>
        none f hf (.inr (.inr (.inr (.inr (.inr (.inr (.inr ⟨rfl, beq_iff_eq.1 e⟩)))))))
      rw [if_neg other]
    next => rfl
  · exact idle _ fun f hr => .inr (.inr (.inr (.inr (.inl ⟨rfl, (hostBurst_iff _ f).1 hr⟩))))
  · exact idle _ fun f hr => .inr (.inr (.inr (.inr (.inr (.inl ⟨rfl, (hostBurst_iff _ f).1 hr⟩)))))

/-- ABORT_EXECUTE executes an abort that waits, once no transaction is in flight. -/
theorem exec_abortExecute {s : State} (running : s.held = none) :
    (∀ p, s.hp.seq.running = some (.portAbort p) → s.mc.flight = none →
      exec .abortExecute s = .next (settle (ended .ok {} (closeGrant (abortPort p s))))) ∧
    ((∀ q, s.hp.seq.running ≠ some (.portAbort q)) ∨ s.mc.flight ≠ none → exec .abortExecute s = .next (settle s)) := by
  have runs : exec .abortExecute s = execAbortExecute s := rfl
  rw [runs, execAbortExecute, event_running running]
  refine ⟨fun p hr hf => ?_, fun idle => ?_⟩
  · rw [hr]
    dsimp only
    rw [if_pos (Option.isNone_iff_eq_none.2 hf)]
    rfl
  · split
    next p hr =>
      rcases idle with none | busy
      · exact absurd hr (none p)
      · rw [if_neg (mt Option.isNone_iff_eq_none.1 busy)]
    all_goals rfl

/-- Settles O49. -/
theorem waitingAbortAndDrainEnds : Obligations.WaitingAbortAndDrainEnds := by
  refine ⟨fun s f p listens hf hw ha => ⟨fun hk => ?_, fun hk hs => ?_⟩, fun c s running hc none => completion_idle running hc none,
    fun s p => ?_, fun s p running => ?_⟩
  · exact completion_abort listens hf (portBurst_true hw hk) (captureCompletion_eq_capturedBurst _ hw) hw ha
      (capturedBurst_work _ hw)
  · have same := replayCompletion_eq_replayedBurst (t := freed s) hw (by rw [freed_port]; exact hs)
    exact completion_abort listens hf (portBurst_true hw hk) same hw ha (replayedBurst_work hw (by rw [freed_port]; exact hs))
  · intro x
    have closed (h : x.state = .closed) : abortPort p s = s := by
      unfold abortPort
      rw [show (s.port p).state = .closed from h]
    split
    next h => exact closed h
    next h => exact abortPort_faulted h
    next hc hf => exact abortPort_open hc hf
  · intro x drained shutDown
    obtain ⟨executes, waits⟩ := exec_abortExecute running
    have ends (h : drained) : closeTest p s = shutDown := (closeTest_eq_drainOver p s).trans (if_pos h)
    have goes (h : ¬ drained) : closeTest p s = s := (closeTest_eq_drainOver p s).trans (if_neg h)
    have capture : exec (.captureCloseEnd p) s = .next (settle (if (s.pcfg p).dir = .capture then closeTest p s else s)) :=
      event_running running fun s => if (s.pcfg p).dir = .capture then closeTest p s else s
    have replay : exec (.replayCloseEnd p) s = .next (settle (if (s.pcfg p).dir = .replay then closeTest p s else s)) :=
      event_running running fun s => if (s.pcfg p).dir = .replay then closeTest p s else s
    refine ⟨executes p, waits, fun hd => ?_, fun hd => ?_, fun hd h => ?_, fun hd h => ?_, fun hd h => ?_, fun hd h => ?_⟩
    · rw [capture, if_neg (by rw [hd]; nofun)]
    · rw [replay, if_neg (by rw [hd]; nofun)]
    · rw [capture, if_pos hd, ends h]
    · rw [capture, if_pos hd, goes h]
    · rw [replay, if_pos hd, ends h]
    · rw [replay, if_pos hd, goes h]

/-! ### What a deferred soft reset leaves of a completion (R178) -/

/-- The setup and everything a soft reset keeps are as before. -/
def ResetKept (s t : State) : Prop := t.sc = s.sc ∧ softResetState t = softResetState s

namespace ResetKept

variable {s t u : State}

protected theorem refl (s : State) : ResetKept s s := ⟨rfl, rfl⟩

theorem trans (h : ResetKept s t) (k : ResetKept t u) : ResetKept s u := ⟨k.1.trans h.1, k.2.trans h.2⟩

theorem branch {c : Prop} [Decidable c] {a b : State} (ha : ResetKept s a) (hb : ResetKept s b) :
    ResetKept s (if c then a else b) := by
  split
  · exact ha
  · exact hb

theorem updEu (f : EventUnit → EventUnit) (h : ResetKept s t) : ResetKept s (t.updEu f) := h.trans ⟨rfl, rfl⟩

theorem post (r : Report) (h : ResetKept s t) : ResetKept s (post r t) := h.trans ⟨rfl, rfl⟩

theorem withPort (p : PortId) (x : Port) (h : ResetKept s t) : ResetKept s (withPort p x t) := h.trans ⟨rfl, rfl⟩

theorem ended (r : Result) (q : Words4) (h : ResetKept s t) : ResetKept s (ended r q t) := h.trans ⟨rfl, rfl⟩

theorem updSeq (f : Sequencer → Sequencer) (h : ResetKept s t) : ResetKept s (t.updSeq f) := h.trans ⟨rfl, rfl⟩

theorem updWin (f : Window → Window) (h : ResetKept s t) : ResetKept s (t.updWin f) := h.trans ⟨rfl, rfl⟩

theorem postAll (rs : List Report) (h : ResetKept s t) : ResetKept s (postAll rs t) := by
  induction rs generalizing t with
  | nil => exact h
  | cons r rs ih => exact ih (h.post r)

theorem shut (p : PortId) (d : Detail) (n : Nat) (h : ResetKept s t) : ResetKept s (shut p d n t) := h.trans ⟨rfl, rfl⟩

theorem closeTest (p : PortId) (h : ResetKept s t) : ResetKept s (closeTest p t) := by
  rw [closeTest_eq_drainOver]
  exact branch ((h.postAll _).shut p _ _) h

theorem doneHead (p : PortId) (d : Detail) (h : ResetKept s t) : ResetKept s (doneHead p d t) := by
  cases hq : (t.port p).queue with
  | nil => rwa [doneHead_nil d hq]
  | cons e r =>
    rw [doneHead_eq d hq, stopSummary_eq]
    have moved := (branch (c := (e.desc.notify || e.desc.stop) = true) (h.post ⟨.segDone, .port p, e.desc.tag, d, e.progress⟩)
      h).withPort p (Port.doneWith (t.pcfg p).dir e.desc (t.port p))
    exact moved.trans ⟨rfl, rfl⟩

theorem abortPort (p : PortId) (h : ResetKept s t) : ResetKept s (abortPort p t) := by
  by_cases hc : (t.port p).state = .closed
  · have same : Machine.abortPort p t = t := by rw [Machine.abortPort, hc]
    rwa [same]
  · by_cases hf : (t.port p).state = .faulted
    · rw [abortPort_faulted hf]
      exact h.shut p _ _
    · rw [abortPort_open hc hf]
      exact (h.postAll _).shut p _ _

theorem closeGrant (h : ResetKept s t) : ResetKept s (closeGrant t) := by
  rw [closeGrant_eq]
  exact h.trans ⟨rfl, rfl⟩

/-- With no transaction of a port in flight there is none to orphan. -/
theorem orphanFlight (p : PortId) (free : ∀ f, t.mc.flight = some f → f.who ≠ .port p) (h : ResetKept s t) :
    ResetKept s (orphanFlight p t) := by
  have none : t.mc.flight.map (fun f => if f.who = .port p then { f with orphan := true } else f) = t.mc.flight := by
    cases hf : t.mc.flight with
    | none => rfl
    | some f => rw [Option.map_some, if_neg (free f hf)]
  have same : Machine.orphanFlight p t = t :=
    congrArg (fun fl => { t with mc := { t.mc with flight := fl } }) none
  rwa [same]

theorem fault (p : PortId) (c : Detail) (free : ∀ f, t.mc.flight = some f → f.who ≠ .port p) (h : ResetKept s t) :
    ResetKept s (fault p c t) := by
  refine branch ?_ h
  have ends : ResetKept s (endWork p endFault t) := by
    rw [endWork_eq_postAll]
    exact h.postAll _
  have kept : (endWork p endFault t).mc.flight = t.mc.flight := by rw [endWork_mc]
  exact (((ends.orphanFlight p (by rwa [kept])).withPort p _).post _).updEu _

theorem endMemCommand (r : Result) (h : ResetKept s t) : ResetKept s (endMemCommand r t) := by
  unfold Machine.endMemCommand
  split
  · exact h.ended r _
  · exact h

theorem chunkEnd (h : ResetKept s t) : ResetKept s (chunkEnd t) := by
  unfold Machine.chunkEnd
  split
  · exact branch (h.endMemCommand _) (branch (h.endMemCommand _) (branch (h.endMemCommand _) h))
  · exact h

theorem captureSteps (p : PortId) (f : Flight) (h : ResetKept s t) : ResetKept s (captureSteps p f t) := by
  unfold Machine.captureSteps
  split
  · exact h.closeTest p
  next e r hq =>
    have advanced : ResetKept s (t.updPort p fun x => (x.advance f.count).logMarks e.desc.tag e.progress f.addr f.words) :=
      h.withPort p _
    refine closeTest p ?_
    cases guardPassed e f.count with
    | none => exact branch (advanced.doneHead p _) (branch (advanced.doneHead p _) advanced)
    | some g =>
      have told := advanced.post ⟨.guard, .port p, e.desc.tag, .noDetail, g⟩
      exact branch (told.doneHead p _) (branch (told.doneHead p _) told)

end ResetKept

/-- The controller in flight for itself, or free: no burst of a port is. -/
def NoneGranted (s : State) : Prop := ∀ f, s.mc.flight = some f → f.who = .controller

theorem freed_noneGranted (s : State) : NoneGranted (freed s) := by
  intro f hf
  unfold freed at hf
  split at hf
  · rw [← Option.some.inj hf]
  · cases hf

theorem captureCompletion_kept {f : Flight} {p : PortId} (hw : f.who = .port p) (s : State) :
    ResetKept (writeMemory f.addr (f.words.map (·.word)) s) (captureCompletion f s) := by
  have steps : captureCompletion f s = if f.orphan then writeMemory f.addr (f.words.map (·.word)) s
      else captureSteps p f (writeMemory f.addr (f.words.map (·.word)) s) := by
    unfold captureCompletion
    rw [hw]
  rw [steps]
  exact .branch (.refl _) ((ResetKept.refl _).captureSteps p f)

theorem replayCompletion_kept {f : Flight} {p : PortId} (hw : f.who = .port p) {s : State} (free : NoneGranted s) :
    ResetKept (countReads f.count s) (replayCompletion f s) := by
  have placed (x : Port → Port) : ResetKept (countReads f.count s) ((countReads f.count s).updPort p x) :=
    (ResetKept.refl _).withPort p _
  have other (g : Flight) (hg : s.mc.flight = some g) : g.who ≠ .port p := by
    rw [free g hg]
    nofun
  unfold replayCompletion
  rw [hw]
  refine .branch (placed _) (ResetKept.closeTest p ?_)
  exact .branch (placed _) (.branch (((placed _).post _).fault p _ other) ((placed _).post _))

theorem fillCompletion_kept (f : Flight) (s : State) :
    ResetKept (writeMemory f.addr (f.words.map (·.word)) s) (fillCompletion f s) := by
  unfold fillCompletion
  split
  · exact ((ResetKept.refl _).updSeq _).chunkEnd
  all_goals exact .refl _

theorem crcCompletion_kept (f : Flight) (s : State) : ResetKept (countReads f.count s) (crcCompletion f s) := by
  unfold crcCompletion
  split
  · exact ((ResetKept.refl _).updSeq _).chunkEnd
  all_goals exact .refl _

theorem wordReadCompletion_kept (f : Flight) (s : State) : ResetKept (countReads 1 s) (wordReadCompletion f s) :=
  .branch (.refl _) (.branch (((ResetKept.refl _).updWin _).updWin _) ((ResetKept.refl _).updWin _))

/-- The state with no soft reset pending. -/
def unpended (s : State) : State := { s with sc := { s.sc with resetPending := false } }

theorem freed_unpended (s : State) : freed (unpended s) = unpended (freed s) := by
  have init : (unpended s).mc.init = s.mc.init := rfl
  unfold freed
  rw [init]
  split_ifs <;> rfl

theorem deferredReset_due {s : State} (h : s.sc.resetPending = true) : deferredReset s = softResetState s :=
  (if_pos h).trans (softReset_eq_softResetState s)

/-- The last step of a completion with a soft reset pending, from what the requester's processing leaves (R133, R178). -/
theorem afterCompletion_kept (w : Requester) (s : State) : ∃ t, ResetKept s t ∧ afterCompletion w s = deferredReset t := by
  rw [afterCompletion_eq_deferred]
  refine ⟨_, ?_, rfl⟩
  split
  · exact (((ResetKept.refl s).abortPort _).closeGrant).ended .ok {}
  · exact (ResetKept.refl s).closeGrant

/-- A completion whose requester's processing leaves the same, as far as a soft reset keeps it, with none pending. -/
theorem completion_reset {s : State} {f : Flight} {row : Flight → Bool} {handle : Flight → State → State}
    (running : s.held = none) (pending : s.sc.resetPending = true) (hf : s.mc.flight = some f) (hr : row f = true)
    (kept : ∀ u, NoneGranted u → (handle f u).sc = u.sc ∧
      softResetState (handle f (unpended u)) = softResetState (handle f u)) :
    ∃ t, event (complete row handle) (unpended s) = .next t ∧
      event (complete row handle) s = .next (settle (softResetState t)) := by
  obtain ⟨setup, alike⟩ := kept (freed s) (freed_noneGranted s)
  obtain ⟨setup', -⟩ := kept (unpended (freed s)) (freed_noneGranted s)
  obtain ⟨t, ⟨hsc, ht⟩, ends⟩ := afterCompletion_kept f.who (handle f (freed s))
  obtain ⟨u, ⟨usc, hu⟩, ends'⟩ := afterCompletion_kept f.who (handle f (unpended (freed s)))
  have due : t.sc.resetPending = true := by rw [hsc, setup, freed_sc, pending]
  have clearFlag : u.sc.resetPending = false := by rw [usc, setup']; rfl
  have clear : event (complete row handle) (unpended s) = .next (settle u) := by
    rw [event_running (show (unpended s).held = none from running),
      complete_of_flight (show (unpended s).mc.flight = some f from hf) hr, endFlight_eq_freed, freed_unpended, ends',
      deferredReset_none clearFlag]
  refine ⟨settle u, clear, ?_⟩
  rw [event_running running, complete_of_flight hf hr, endFlight_eq_freed, ends, deferredReset_due due,
    softResetState_settle, ht, hu, alike]

/-- A completion whose processing is, as far as a soft reset keeps it, an operation that does not look at the setup. -/
theorem kept_of_net {handle net : State → State} {u : State} (free : NoneGranted u)
    (work : ∀ v, NoneGranted v → ResetKept (net v) (handle v)) (setup : (net u).sc = u.sc)
    (alike : softResetState (net (unpended u)) = softResetState (net u)) :
    (handle u).sc = u.sc ∧ softResetState (handle (unpended u)) = softResetState (handle u) :=
  ⟨(work u free).1.trans setup, by rw [(work u free).2, (work (unpended u) free).2, alike]⟩

theorem refreshCompletion_kept (f : Flight) (u : State) : (refreshCompletion f u).sc = u.sc ∧
    softResetState (refreshCompletion f (unpended u)) = softResetState (refreshCompletion f u) := by
  unfold refreshCompletion
  have state : (unpended u).mc.state = u.mc.state := rfl
  rw [state]
  split_ifs <;> exact ⟨rfl, rfl⟩

theorem initStep_kept (u : State) : (initStep u).sc = u.sc ∧
    softResetState (initStep (unpended u)) = softResetState (initStep u) := by
  unfold initStep
  have init : (unpended u).mc.init = u.mc.init := rfl
  rw [init]
  cases u.mc.init with
  | step n modeFirst k =>
    dsimp only
    split_ifs <;> exact ⟨rfl, rfl⟩
  | idle => exact ⟨rfl, rfl⟩
  | awaiting => exact ⟨rfl, rfl⟩

/-- The completion of the transaction in flight, whichever it is, and then the reset. -/
theorem completion_then_reset {c : Instr} {s : State} {f : Flight} (running : s.held = none)
    (pending : s.sc.resetPending = true) (hf : s.mc.flight = some f) (hc : Completes c f) :
    ∃ t, exec c (unpended s) = .next t ∧ exec c s = .next (settle (softResetState t)) := by
  rcases hc with ⟨rfl, hk, p, hw⟩ | ⟨rfl, hk, p, hw⟩ | ⟨rfl, hk, hw⟩ | ⟨rfl, hk, hw⟩ | ⟨rfl, hk, hw⟩ | ⟨rfl, hk, hw⟩ |
    ⟨rfl, hw⟩ | ⟨rfl, hw⟩
  · exact completion_reset running pending hf (portBurst_true hw hk) fun u free =>
      kept_of_net free (fun v _ => captureCompletion_kept hw v) rfl rfl
  · exact completion_reset running pending hf (portBurst_true hw hk) fun u free =>
      kept_of_net free (fun v hv => replayCompletion_kept hw hv) rfl rfl
  · exact completion_reset running pending hf (hostBurst_true hw hk) fun u free =>
      kept_of_net free (fun v _ => wordReadCompletion_kept f v) rfl rfl
  · exact completion_reset running pending hf (hostBurst_true hw hk) fun u _ => ⟨rfl, rfl⟩
  · exact completion_reset running pending hf (hostBurst_true hw hk) fun u free =>
      kept_of_net free (fun v _ => fillCompletion_kept f v) rfl rfl
  · exact completion_reset running pending hf (hostBurst_true hw hk) fun u free =>
      kept_of_net free (fun v _ => crcCompletion_kept f v) rfl rfl
  · exact completion_reset running pending hf (refreshRow_true hw) fun u _ => refreshCompletion_kept f u
  · obtain ⟨setup, alike⟩ := initStep_kept s
    obtain ⟨setup', -⟩ := initStep_kept (unpended s)
    have clearFlag : (initStep (unpended s)).sc.resetPending = false := by rw [setup']; rfl
    have due : (initStep s).sc.resetPending = true := by rw [setup, pending]
    refine ⟨settle (initStep (unpended s)), ?_, ?_⟩
    · rw [exec_initStep (s := unpended s) running hf hw, deferredReset_none clearFlag]
    · rw [exec_initStep running hf hw, deferredReset_due due, softResetState_settle, alike]

/-- Settles O23. -/
theorem softResetAppliedOrDeferred : Obligations.SoftResetAppliedOrDeferred := by
  refine ⟨fun w s running => ?_, fun c s f running pending hf hc => completion_then_reset running pending hf hc⟩
  have asks (h0 : w.getLsbD 0 = true) : exec (.softReset w) s = .next (settle (requestSoftReset s)) :=
    (hostWrite_devCtrl running w).trans (by rw [writeDevCtrl, if_pos (show flag w 0 = true from h0)])
  have applies : exec .softResetApplied s = .next (settle (if s.mc.flight.isNone then deferredReset s else s)) :=
    event_running running fun s => if s.mc.flight.isNone then deferredReset s else s
  refine ⟨fun h0 hp hf => ?_, fun h0 hp hf => ?_, fun h0 hp => ?_, fun hp hf => ?_, fun idle => ?_⟩
  · rw [asks h0, requestSoftReset, if_neg (Bool.eq_false_iff.1 hp), hf, if_neg nofun, softReset_eq_softResetState]
  · rw [asks h0, requestSoftReset, if_neg (Bool.eq_false_iff.1 hp), if_pos (Option.isSome_iff_ne_none.2 hf)]
    rfl
  · rw [asks h0, requestSoftReset, if_pos hp]
  · rw [applies, if_pos (Option.isNone_iff_eq_none.2 hf), deferredReset_due hp]
  · rw [applies]
    by_cases hf : s.mc.flight = none
    · have clear : s.sc.resetPending = false := by
        simpa using fun hp => idle ⟨hp, hf⟩
      rw [if_pos (Option.isNone_iff_eq_none.2 hf), deferredReset_none clear]
    · rw [if_neg (mt Option.isNone_iff_eq_none.1 hf)]

end Sys2Proof.Proofs

/-! PROOFS. Arbitration: the transaction each requester is granted (R67 to R69, R108), what closing a grant does to the
fairness states (R70, R71), and the winner of an arbitration point (R60 to R66). -/

namespace Sys2Proof.Proofs

open Sys2Proof.Machine Sys2Proof.Safety Sys2Proof.Laws

/-! ### Burst sizes (R30, R67, R68) -/

theorem burst_eq {k : PortCfg} (h : k.burstCode ≤ 3) : k.burst = 4 * 2 ^ k.burstCode := by
  unfold PortCfg.burst
  split
  next e => rw [e]; rfl
  next e => rw [e]; rfl
  next e => rw [e]; rfl
  next h0 h1 h2 =>
    have : k.burstCode = 3 := by grind
    rw [this]
    rfl

theorem toFirstMark_eq (l : List FifoWord) : toFirstMark l = (l.findIdx? (·.mark)).map (· + 1) := by
  induction l with
  | nil => rfl
  | cons e es ih =>
    rw [List.findIdx?_cons, toFirstMark, ih]
    split
    · rfl
    · rw [Option.map_map]

/-- R67 and R102: a burst of a SPLIT descriptor ends at the first MARK. -/
theorem captureCount_of_mark {k : PortCfg} {x : Port} {i : Nat} (h : QEntry) (legal : k.burstCode ≤ 3)
    (hm : x.fifo.findIdx? (·.mark) = some i) : captureCount k x h =
      bif h.desc.last then min (min (4 * 2 ^ k.burstCode) (min x.fifo.length (h.desc.length - h.progress))) (i + 1)
      else min (4 * 2 ^ k.burstCode) (min x.fifo.length (h.desc.length - h.progress)) := by
  unfold captureCount
  rw [burst_eq legal, toFirstMark_eq, hm]
  cases h.desc.last <;> rfl

theorem captureCount_of_noMark {k : PortCfg} {x : Port} (h : QEntry) (legal : k.burstCode ≤ 3)
    (hm : x.fifo.findIdx? (·.mark) = none) :
    captureCount k x h = min (4 * 2 ^ k.burstCode) (min x.fifo.length (h.desc.length - h.progress)) := by
  unfold captureCount
  rw [burst_eq legal, toFirstMark_eq, hm]
  cases h.desc.last <;> rfl

/-- R68: the burst limit, the free space and the repetition. -/
theorem replayCount_eq {k : PortCfg} (x : Port) (cur : Cursor) (e : QEntry) (legal : k.burstCode ≤ 3) :
    replayCount k x cur e =
      min (4 * 2 ^ k.burstCode) (min (64 - x.fifo.length - x.reservation) (e.desc.length - cur.off)) := by
  unfold replayCount
  rw [burst_eq legal]
  rfl

theorem finishesLast_iff (d : Desc) (cur : Cursor) (n : Nat) :
    finishesLast d cur n = true ↔ d.length ≤ cur.off + n ∧ d.rpt.getD 1 ≤ cur.rep := by
  unfold finishesLast Desc.repeats
  simp only [Bool.and_eq_true, decide_eq_true_eq]

theorem slotsOf_eq (d : Desc) (cur : Cursor) (n : Nat) : slotsOf d cur n = (List.range n).map fun i =>
    { mark := decide (cur.rep = d.rpt.getD 1 ∧ cur.off + i = d.length - 1) && d.last,
      boundary := ⟨d, cur.rep, cur.off + i, decide (cur.rep = d.rpt.getD 1 ∧ cur.off + i = d.length - 1)⟩ } := by
  refine List.map_congr_left fun i _ => ?_
  rw [Bool.decide_and]
  rfl

/-! ### Grants (R66 to R69, R102, R108, R109) -/

theorem grant_capture {c : Candidate} {p : PortId} {s : State} (h : c.who = .port p) (hd : (s.pcfg p).dir = .capture) :
    grant c s = grantCapture c p s := by
  unfold grant
  rw [h]
  dsimp only
  rw [hd]

theorem grant_replay {c : Candidate} {p : PortId} {s : State} (h : c.who = .port p) (hd : (s.pcfg p).dir = .replay) :
    grant c s = grantReplay c p s := by
  unfold grant
  rw [h]
  dsimp only
  rw [hd]

theorem grant_host {c : Candidate} (h : c.who = .host) (s : State) : grant c s = grantHost c s := by
  unfold grant
  rw [h]

theorem grant_refresh {c : Candidate} (h : c.who = .refresh) (s : State) :
    grant c s = begin c { kind := .refresh, who := .refresh } s := by
  unfold grant
  rw [h]

theorem grantHost_of_request {s : State} {w : HostWork} (h : hostRequest s = some w) (c : Candidate) :
    grantHost c s = begin c (hostFlight w) s := by
  unfold grantHost
  rw [h]

theorem grantCapture_of_head {s : State} {p : PortId} {h : QEntry} {t : List QEntry} (hq : (s.port p).queue = h :: t)
    (c : Candidate) : grantCapture c p s =
      begin c
        { kind := .writeBurst, who := .port p, addr := (s.pcfg p).regionFirst + h.desc.start + h.progress,
          count := captureCount (s.pcfg p) (s.port p) h,
          words := (s.port p).fifo.take (captureCount (s.pcfg p) (s.port p) h) }
        (s.updPort p fun y => { y with fifo := y.fifo.drop (captureCount (s.pcfg p) (s.port p) h) }) := by
  unfold grantCapture
  dsimp only
  rw [hq]

theorem grantReplay_of_fetched {s : State} {p : PortId} {cur : Cursor} {e : QEntry}
    (hf : (s.port p).fetched = some (cur, e)) (c : Candidate) : grantReplay c p s =
      begin c
        { kind := .readBurst, who := .port p, addr := (s.pcfg p).regionFirst + e.desc.start + cur.off,
          count := replayCount (s.pcfg p) (s.port p) cur e,
          slots := slotsOf e.desc cur (replayCount (s.pcfg p) (s.port p) cur e) }
        (s.updPort p (Port.fetchGranted cur e (replayCount (s.pcfg p) (s.port p) cur e))) := by
  unfold grantReplay
  dsimp only
  rw [hf]

theorem fetchGranted_eq (cur : Cursor) (e : QEntry) (n : Nat) (x : Port) : Port.fetchGranted cur e n x =
    { x with
      reservation := n
      queue := x.queue.set cur.pos { e with started := true }
      fetch := moveCursor x.queue.length e.desc cur n
      stopBlock := if (e.desc.length ≤ cur.off + n ∧ e.desc.rpt.getD 1 ≤ cur.rep) ∧ e.desc.stop = true then .waiting cur.pos
        else x.stopBlock } := by
  unfold Port.fetchGranted
  simp only [Bool.and_eq_true, finishesLast_iff]

theorem hostRequest_write {s : State} {b : Buffered} (hb : s.hp.win.wbuf = some b) : hostRequest s = some (.wordWrite b) := by
  unfold hostRequest
  rw [hb]

theorem hostRequest_fill {s : State} {j : Job} {pattern : Word} (hb : s.hp.win.wbuf = none)
    (hr : s.hp.seq.running = some (.memFill j pattern)) : hostRequest s = some (.fillChunk j pattern) := by
  unfold hostRequest
  rw [hb, hr]

theorem hostRequest_crc {s : State} {j : Job} {crc : Word} {errors : Nat} (hb : s.hp.win.wbuf = none)
    (hr : s.hp.seq.running = some (.regionCrc j crc errors)) : hostRequest s = some (.crcChunk j) := by
  unfold hostRequest
  rw [hb, hr]

/-- HOST's work with no write buffered: the running memory command's chunk, else the prefetch (R69). -/
theorem hostRequest_prefetch {s : State} (hb : s.hp.win.wbuf = none) (hj : jobOf s = none) (hl : s.hp.win.latch = .pending) :
    hostRequest s = some (.wordRead s.hp.win.addr) := by
  unfold jobOf at hj
  unfold hostRequest
  rw [hb]
  cases hr : s.hp.seq.running with
  | none => simp [hl]
  | some r =>
    rw [hr] at hj
    cases r with
    | memFill j pattern => cases hj
    | regionCrc j crc errors => cases hj
    | portAbort p => simp [hl]
    | doze => simp [hl]

/-- Settles O51. -/
theorem grantsAndBurstSizes : Obligations.GrantsAndBurstSizes := by
  intro c s granted
  refine ⟨fun p h t hw hd legal hq => ?_, fun p cur e hw hd legal hfetch hget => ?_, fun hw => grant_refresh hw s, fun hw => ?_⟩
  · intro x k limit n
    have size : captureCount (s.pcfg p) (s.port p) h = n := by
      cases hm : (s.port p).fifo.findIdx? (·.mark) with
      | none =>
        simp only [n, x, hm]
        exact captureCount_of_noMark h legal hm
      | some i =>
        simp only [n, x, hm, ← Bool.cond_eq_ite]
        exact captureCount_of_mark h legal hm
    rw [grant_capture hw hd, grantCapture_of_head hq, size]
    rfl
  · intro x k d n finished
    have size : replayCount (s.pcfg p) (s.port p) cur e = n := replayCount_eq _ _ _ legal
    have under : (s.port p).fetched = some (cur, e) := by
      unfold Port.fetched
      rw [hfetch]
      dsimp only
      rw [hget]
    rw [grant_replay hw hd, grantReplay_of_fetched under, size, slotsOf_eq]
    rw [updPort_eq_withPort, fetchGranted_eq]
    rfl
  · have host {w : HostWork} (request : hostRequest s = some w) : grant c s = begin c (hostFlight w) s :=
      (grant_host hw s).trans (grantHost_of_request request c)
    exact ⟨fun b hb => host (hostRequest_write hb), fun j pattern hb hr => host (hostRequest_fill hb hr),
      fun j crc errors hb hr => host (hostRequest_crc hb hr), fun hb hj hl => host (hostRequest_prefetch hb hj hl)⟩

/-! ### Closing a grant (R70, R71) -/

theorem subject_iff (r : Requester) : r.subject = true ↔ r = .host ∨ ∃ p, r = .port p := by
  cases r <;> simp [Requester.subject]

theorem otherGated_iff (s : State) (r : Requester) : otherGated s r = true ↔
    ∃ c ∈ candidates s, c.who ≠ r ∧ (c.who = .host ∨ ∃ p, c.who = .port p) := by
  unfold otherGated
  simp only [List.any_eq_true, Bool.and_eq_true, subject_iff, bne_iff_ne, ne_eq]
  exact exists_congr fun c => and_congr_right fun _ => and_comm

/-- R70: what closing a grant does when the completing requester becomes HELD, and when it does not. -/
theorem closeGrant_of_grant {s : State} {g : Grant} (hg : s.ma.grant = some g) : closeGrant s =
    if (g.cls = .normal ∧ g.who.subject = true ∧ s.sc.cfg.fairness = true) ∧ otherGated (settlePorts s) g.who = true ∧
        closedRequester (settlePorts s) g.who = false
    then (hold g.who (settlePorts s)).updMa fun a => { a with grant := none }
    else { settlePorts s with ma := { s.ma with grant := none } } := by
  have fair : (settlePorts s).sc.cfg.fairness = s.sc.cfg.fairness := rfl
  unfold closeGrant fairnessUpdate
  rw [show (settlePorts s).ma.grant = some g from hg]
  simp only [Bool.and_eq_true, Bool.not_eq_true', beq_iff_eq, and_assoc, fair]
  split <;> rfl

theorem closeGrant_of_noGrant {s : State} (hg : s.ma.grant = none) : closeGrant s = settlePorts s := by
  unfold closeGrant fairnessUpdate
  rw [show (settlePorts s).ma.grant = none from hg]
  show { settlePorts s with ma := { s.ma with grant := none } } = settlePorts s
  rw [← hg]
  rfl

theorem closedRequester_port (s : State) (p : PortId) : closedRequester (settlePorts s) (.port p) = false ↔
    (s.port p).state ≠ .closed := by
  have same : ((settlePorts s).port p).state = (s.port p).state := by rw [settlePorts_port, settlePort_state]
  unfold closedRequester
  dsimp only
  rw [same]
  exact beq_eq_false_iff_ne

/-- Settles O52. -/
theorem fairnessUpdateAtCompletion : Obligations.FairnessUpdateAtCompletion := by
  intro s u emptied others
  have waiting (r : Requester) : otherGated u r = true ↔ others r := otherGated_iff u r
  refine ⟨closeGrant_of_noGrant, fun r hg => ?_, fun r hg quiet => ?_, fun hg => ?_, fun hg fair other => ?_,
    fun p hg fair other => ⟨fun alive => ?_, fun closed => ?_⟩⟩
  all_goals rw [closeGrant_of_grant hg]
  · exact if_neg fun h => nomatch h.1.1
  · refine if_neg fun ⟨⟨_, _, fair⟩, other, _⟩ => ?_
    exact quiet.elim (fun e => nomatch fair.symm.trans e) fun e => e ((waiting r).1 other)
  · exact if_neg fun h => nomatch h.1.2.1
  · exact if_pos ⟨⟨rfl, rfl, fair⟩, (waiting _).2 other, rfl⟩
  · exact if_pos ⟨⟨rfl, rfl, fair⟩, (waiting _).2 other, (closedRequester_port s p).2 alive⟩
  · exact if_neg fun ⟨_, _, h⟩ => (closedRequester_port s p).1 h closed

/-! ### The gated requests in requester index order (R60, R61, R65) -/

/-- A list of gated requests in requester index order, none behind place `n`. -/
def RankedTo (n : Nat) (cs : List Candidate) : Prop :=
  cs.Pairwise (fun a b => requesterIndex a.who ≤ requesterIndex b.who) ∧ ∀ c ∈ cs, requesterIndex c.who ≤ n

theorem asking_ranked (who : Requester) (request : Option Urgency) (u n : Nat) :
    RankedTo (requesterIndex who) (asking who request u n) := by
  refine ⟨?_, fun c hc => ?_⟩
  · unfold asking
    split <;> simp
  · obtain ⟨hw, -⟩ := (mem_asking ..).1 hc
    exact le_of_eq (congrArg _ hw)

theorem RankedTo.append_asking {n : Nat} {cs : List Candidate} (h : RankedTo n cs) {who : Requester}
    (later : n ≤ requesterIndex who) (request : Option Urgency) (u v : Nat) :
    RankedTo (requesterIndex who) (cs ++ asking who request u v) := by
  obtain ⟨sorted, bound⟩ := asking_ranked who request u v
  refine ⟨List.pairwise_append.2 ⟨h.1, sorted, fun a ha b hb => ?_⟩, fun c hc => ?_⟩
  · obtain ⟨hw, -⟩ := (mem_asking ..).1 hb
    exact ((h.2 a ha).trans later).trans (le_of_eq (congrArg _ hw.symm))
  · exact (List.mem_append.1 hc).elim (fun hc => (h.2 c hc).trans later) (bound c)

theorem candidates_ranked (s : State) : RankedTo 5 (candidates s) := by
  unfold candidates
  dsimp only
  exact (((((asking_ranked .refresh ..).append_asking (by decide) ..).append_asking (by decide) ..).append_asking
    (by decide) ..).append_asking (by decide) ..).append_asking (by decide) ..

theorem mem_candidates (s : State) (c : Candidate) : c ∈ candidates s ↔
    c ∈ asking .refresh (refreshRequest s) s.sc.cfg.refreshUrgentLevel s.sc.cfg.refreshNormalLevel ∨
    c ∈ asking .host ((hostRequest s).map fun _ => .normal) s.sc.cfg.hostLevel s.sc.cfg.hostLevel ∨
    ∃ p, c ∈ asking (.port p) (s.port p).gated (s.pcfg p).urgentLevel (s.pcfg p).normalLevel := by
  have somePort (P : PortId → Prop) : (∃ p, P p) ↔ P .p0 ∨ P .p1 ∨ P .p2 ∨ P .p3 :=
    ⟨fun ⟨p, h⟩ => by cases p <;> simp [h], by rintro (h | h | h | h) <;> exact ⟨_, h⟩⟩
  unfold candidates
  simp only [List.mem_append, or_assoc, somePort]

theorem gated_eq_some (x : Port) (u : Urgency) : x.gated = some u ↔
    (x.xen = true ∨ x.state = .closing) ∧ x.request = some u := by
  unfold Port.gated
  by_cases admitted : x.xen = true ∨ x.state = .closing <;> simp [admitted]

/-- R51, R60, R61: the candidates are the gated requests. -/
theorem mem_candidates_iff (s : State) (c : Candidate) : c ∈ candidates s ↔ GatedRequest s c := by
  obtain ⟨who, urg, level⟩ := c
  rw [mem_candidates]
  simp only [mem_asking]
  unfold GatedRequest
  cases who with
  | refresh =>
    simp only [refreshRequest_eq_some, true_and, false_and, exists_false, or_false, reduceCtorEq]
    cases urg <;> simp [and_assoc, Cfg.urgentLimit, Cfg.refreshUrgentLevel, Cfg.refreshNormalLevel]
  | host =>
    simp only [true_and, false_and, exists_false, or_false, false_or, reduceCtorEq, ← hostRequest_isSome]
    cases hostRequest s <;> cases urg <;> simp [Cfg.hostLevel]
  | port p =>
    simp only [Requester.port.injEq, gated_eq_some, false_and, false_or, reduceCtorEq, and_assoc, exists_eq_left']
    cases urg <;> exact Iff.rfl
  | controller => simp

/-! ### Eligibility and the release (R63, R64) -/

/-- The requester is HELD. -/
def HeldBy (a : Arbiter) (r : Requester) : Prop := (r = .host ∧ a.host = .held) ∨ ∃ p, r = .port p ∧ a.ports.get p = .held

/-- R64: no subject requester is eligible, and a HELD one has a gated request. -/
def Releases (a : Arbiter) (cs : List Candidate) : Prop :=
  (∀ c ∈ cs, (c.who = .host ∨ ∃ p, c.who = .port p) → c.urg = .normal ∧ HeldBy a c.who) ∧ ∃ c ∈ cs, HeldBy a c.who

theorem fairOf_eq_held_iff (a : Arbiter) (r : Requester) : fairOf a r = .held ↔ HeldBy a r := by
  unfold HeldBy
  cases r <;> simp [fairOf]

theorem fairOf_eq_opened_iff (a : Arbiter) (r : Requester) : fairOf a r = .opened ↔ ¬ HeldBy a r := by
  rw [← fairOf_eq_held_iff]
  cases fairOf a r <;> simp

theorem eligible_iff (a : Arbiter) (c : Candidate) : eligible a c = true ↔ c.urg = .urgent ∨ ¬ HeldBy a c.who := by
  unfold eligible
  rw [Bool.or_eq_true, beq_iff_eq, beq_iff_eq, fairOf_eq_opened_iff]

theorem releaseDue_iff (a : Arbiter) (cs : List Candidate) : releaseDue a cs = true ↔ Releases a cs := by
  have waits (c : Candidate) : ¬ eligible a c = true ↔ c.urg = .normal ∧ HeldBy a c.who := by
    rw [eligible_iff, not_or, not_not]
    cases c.urg <;> simp
  unfold releaseDue Releases
  simp only [Bool.and_eq_true, Bool.not_eq_true', List.any_eq_true, List.any_eq_false, beq_iff_eq, fairOf_eq_held_iff,
    not_and, waits, subject_iff]

theorem release_of_due {s : State} (h : Releases s.ma (candidates s)) : release s = openAll s :=
  if_pos ((releaseDue_iff _ _).2 h)

theorem release_of_notDue {s : State} (h : ¬ Releases s.ma (candidates s)) : release s = s :=
  if_neg (mt (releaseDue_iff _ _).1 h)

theorem candidates_release (s : State) : candidates (release s) = candidates s := by
  unfold release
  split <;> rfl

theorem not_heldBy_openAll (s : State) (r : Requester) : ¬ HeldBy (openAll s).ma r := by
  rintro (⟨-, h⟩ | ⟨p, -, h⟩)
  · cases h
  · cases p <;> cases h

/-- After the release test, a requester is eligible exactly if it is urgent, was OPEN, or has been released. -/
theorem eligible_release_iff (s : State) (c : Candidate) : eligible (release s).ma c = true ↔
    c.urg = .urgent ∨ ¬ HeldBy s.ma c.who ∨ Releases s.ma (candidates s) := by
  rw [eligible_iff]
  by_cases h : Releases s.ma (candidates s)
  · simp only [release_of_due h, h, not_heldBy_openAll, not_false_iff, or_true]
  · simp only [release_of_notDue h, h, or_false]

/-- Where some request is gated, one is eligible after the release test. -/
theorem exists_eligible {s : State} (h : candidates s ≠ []) : ∃ c ∈ candidates s, eligible (release s).ma c = true := by
  by_contra stuck
  push Not at stuck
  have waits (c : Candidate) (hc : c ∈ candidates s) : c.urg ≠ .urgent ∧ HeldBy s.ma c.who ∧ ¬ Releases s.ma (candidates s) := by
    simpa [eligible_release_iff, not_or] using stuck c hc
  obtain ⟨c, hc⟩ := List.exists_mem_of_ne_nil _ h
  obtain ⟨-, held, quiet⟩ := waits c hc
  refine quiet ⟨fun d hd _ => ?_, c, hc, held⟩
  obtain ⟨normal, held, -⟩ := waits d hd
  exact ⟨by cases hu : d.urg with | urgent => exact absurd hu normal | normal => rfl, held⟩

/-! ### The winner (R65, R40) -/

/-- The lowest level wins, and of equal levels the first in the list. -/
theorem lowest_least (c : Candidate) (cs : List Candidate)
    (sorted : (c :: cs).Pairwise fun a b => requesterIndex a.who ≤ requesterIndex b.who) :
    ∀ d ∈ c :: cs, (lowest c cs).level < d.level ∨
      ((lowest c cs).level = d.level ∧ requesterIndex (lowest c cs).who ≤ requesterIndex d.who) := by
  induction cs generalizing c with
  | nil => simp [lowest]
  | cons b bs ih =>
    obtain ⟨first, rest⟩ := List.pairwise_cons.1 sorted
    have firstRest : ∀ d ∈ bs, requesterIndex c.who ≤ requesterIndex d.who := fun d hd => first d (List.mem_cons_of_mem _ hd)
    have cb := first b (List.mem_cons_self ..)
    intro d hd
    rw [show lowest c (b :: bs) = lowest (if b.level < c.level then b else c) bs from rfl]
    by_cases lower : b.level < c.level
    · rw [if_pos lower]
      have best := ih b rest
      rcases List.mem_cons.1 hd with rfl | hd
      · have := best b (List.mem_cons_self ..)
        omega
      · exact best d hd
    · rw [if_neg lower]
      have best := ih c (List.pairwise_cons.2 ⟨firstRest, (List.pairwise_cons.1 rest).2⟩)
      have := best c (List.mem_cons_self ..)
      rcases List.mem_cons.1 hd with rfl | hd
      · exact this
      · rcases List.mem_cons.1 hd with rfl | hd
        · omega
        · exact best d (List.mem_cons_of_mem _ hd)

theorem winner_spec {a : Arbiter} {cs : List Candidate} {w : Candidate} (h : winner a cs = some w)
    (sorted : cs.Pairwise fun a b => requesterIndex a.who ≤ requesterIndex b.who) : eligible a w = true ∧
      ∀ c ∈ cs, eligible a c = true → w.level < c.level ∨
        (w.level = c.level ∧ requesterIndex w.who ≤ requesterIndex c.who) := by
  unfold winner at h
  cases hf : cs.filter (eligible a) with
  | nil => rw [hf] at h; cases h
  | cons d ds =>
    rw [hf] at h
    obtain rfl := Option.some.inj h
    have least := lowest_least d ds (hf ▸ sorted.filter _)
    rw [← hf] at least
    exact ⟨(List.mem_filter.1 (hf ▸ lowest_mem d ds)).2, fun c hc he => least c (List.mem_filter.2 ⟨hc, he⟩)⟩

theorem exists_winner {a : Arbiter} {cs : List Candidate} (h : ∃ c ∈ cs, eligible a c = true) : ∃ w, winner a cs = some w := by
  obtain ⟨c, hc, he⟩ := h
  unfold winner
  cases hf : cs.filter (eligible a) with
  | nil => exact absurd (List.mem_filter.2 ⟨hc, he⟩) (hf ▸ List.not_mem_nil)
  | cons d ds => exact ⟨_, rfl⟩

/-- R66: the grant of a gated request begins its transaction and fills the grant record. -/
theorem grant_begins {c : Candidate} {s t : State} (hports : t.ports = (settlePorts s).ports) (hsc : t.sc = s.sc)
    (hc : c ∈ candidates t) : ∃ f u, grant c t = begin c f u ∧ f.who = c.who ∧ u.ma = t.ma := by
  cases hw : c.who with
  | refresh => exact ⟨_, _, grant_refresh hw t, rfl, rfl⟩
  | host =>
    obtain ⟨w, request⟩ : ∃ w, hostRequest t = some w := by
      have gated := (mem_candidates_iff t c).1 hc
      unfold GatedRequest at gated
      rw [hw] at gated
      exact Option.isSome_iff_exists.1 ((hostRequest_isSome t).2 gated.1)
    exact ⟨_, _, (grant_host hw t).trans (grantHost_of_request request c), hostFlight_who w, rfl⟩
  | port p =>
    have same : t.port p = (settlePorts s).port p := congrArg (·.get p) hports
    have cfg : t.pcfg p = s.pcfg p := by rw [State.pcfg, hsc]; rfl
    have asks := request_of_candidate hc hw
    rw [same] at asks
    have request := requestOf_of_settled asks
    rw [← cfg, ← same] at request
    cases hd : (t.pcfg p).dir with
    | capture =>
      obtain ⟨e, r, hq, -⟩ := captureRequest_eq_some (k := t.pcfg p) (x := t.port p) (u := c.urg) (by
        unfold requestOf at request
        rw [hd] at request
        exact request)
      exact ⟨_, _, (grant_capture hw hd).trans (grantCapture_of_head hq c), rfl, rfl⟩
    | replay =>
      obtain ⟨cur, e, hf, -⟩ := replayRequest_eq_some (k := t.pcfg p) (x := t.port p) (u := c.urg) (by
        unfold requestOf at request
        rw [hd] at request
        exact request)
      exact ⟨_, _, (grant_replay hw hd).trans (grantReplay_of_fetched hf c), rfl, rfl⟩
  | controller =>
    have gated := (mem_candidates_iff t c).1 hc
    unfold GatedRequest at gated
    rw [hw] at gated
    exact gated.elim

/-! ### The arbitration point (R62 to R66) -/

theorem pointHeld_iff (s : State) : pointHeld s = true ↔
    (s.mc.state = .ready ∧ s.mc.flight = none) ∧ (s.mc.sleepRequest = true → s.mc.owed ≠ 0) := by
  unfold pointHeld
  rw [Bool.and_eq_true, Bool.and_eq_true, beq_iff_eq, Option.isNone_iff_eq_none, Bool.not_eq_true', ← Bool.not_eq_true,
    sleepDue_iff]
  refine and_congr_right fun free => not_congr ⟨fun h => ⟨h.1, h.2.2⟩, fun h => ⟨h.1, free, h.2⟩⟩ |>.trans not_and

theorem settlePorts_of_settled {s : State} (running : s.held = none) (h : Settled s) : settlePorts s = s := by
  have settled := (settled_of_running running).1 h
  rw [← settled]
  exact settlePorts_settle s

theorem arbitrate_of_winner {s : State} {w : Candidate} (held : pointHeld s = true) (hs : settlePorts s = s)
    (h : winner (release s).ma (candidates s) = some w) : arbitrate s = grant w (release s) := by
  unfold arbitrate
  rw [if_pos held, hs]
  dsimp only
  rw [candidates_release, h]

theorem arbitrate_quiet {s : State} (hs : settlePorts s = s) (h : candidates s = []) : arbitrate s = s := by
  have notDue : ¬ Releases s.ma (candidates s) := by
    rintro ⟨-, c, hc, -⟩
    simp [h] at hc
  have noWinner : winner s.ma (candidates s) = none := by
    rw [h]
    rfl
  unfold arbitrate
  rw [hs]
  dsimp only
  rw [release_of_notDue notDue, noWinner, ite_self]

/-- Settles O50. -/
theorem arbitrationPointGrantsTheWinner : Obligations.ArbitrationPointGrantsTheWinner := by
  refine ⟨mem_candidates_iff, fun s running shut => ?_, fun s running settled ready free awake => ?_⟩
  · have notHeld : ¬ pointHeld s = true := by
      rw [pointHeld_iff]
      rintro ⟨⟨ready, free⟩, awake⟩
      rcases shut with h | h | ⟨request, paid⟩
      · exact h ready
      · exact h free
      · exact awake request paid
    have nothing : arbitrate s = s := if_neg notHeld
    exact (event_running running arbitrate).trans (by rw [nothing])
  intro cs held subject releases eligible released
  have runs : exec .arbitrationPoint s = .next (settle (arbitrate s)) := event_running running arbitrate
  have still := settlePorts_of_settled running settled
  have isHeld : pointHeld s = true := (pointHeld_iff s).2 ⟨⟨ready, free⟩, awake⟩
  refine ⟨fun quiet => ?_, fun gated => ?_⟩
  · rw [runs, arbitrate_quiet still quiet, (settled_of_running running).1 settled]
  obtain ⟨w, hw⟩ := exists_winner (exists_eligible gated)
  have mem := winner_mem hw
  obtain ⟨elig, least⟩ := winner_spec hw (candidates_ranked s).1
  obtain ⟨hmc, hports, hsc⟩ := release_frame_eq s
  obtain ⟨f, u, begins, who, hma⟩ :=
    grant_begins (c := w) (s := s) (t := release s) (hports.trans (congrArg State.ports still.symm)) hsc
      (by rw [candidates_release]; exact mem)
  have next := arbitrate_of_winner isHeld still hw
  have flight : (settle (grant w (release s))).mc.flight = some f := by rw [begins, settle_mc]; rfl
  have arbiter : (settle (grant w (release s))).ma = { (release s).ma with grant := some ⟨w.who, w.urg⟩ } := by
    rw [begins, settle_ma, ← hma]
    rfl
  refine ⟨w, f, settle (grant w (release s)), mem, (eligible_release_iff s w).1 elig,
    fun c hc he => least c hc ((eligible_release_iff s c).2 he), by rw [runs, next], fun due => ?_, fun notDue => ?_, flight, who,
    by rw [arbiter], fun due => ?_, fun notDue => ?_⟩
  · rw [release_of_due due]
    rfl
  · rw [release_of_notDue notDue]
  · rw [arbiter, release_of_due due]
    exact ⟨rfl, fun p => by cases p <;> rfl⟩
  · rw [arbiter, release_of_notDue notDue]
    exact ⟨rfl, rfl⟩

end Sys2Proof.Proofs
